-- ==== Sys2Proof/Word.lean ====
section
/-! DEFINITION. The word types of the block: 8-bit bytes and 16-bit checksums (00_scope.md R9). All values are
unsigned. -/

namespace Sys2Proof

/-- A byte of a frame or of a stream (R9, R50). -/
abbrev Byte := BitVec 8

/-- A 16-bit value: the accumulator, a checksum, a parameter (R25, R74, R76). -/
abbrev Half := BitVec 16

/-- A 27-bit command word (R80). -/
abbrev Cmd := BitVec 27

/-- An 80-bit frame value, byte 0 in bits 79 to 72 (R70). -/
abbrev Wire := BitVec 80

/-- The ten bytes of a frame in wire order, byte 0 first (R57, R70). -/
abbrev Frame := Vector Byte 10

end Sys2Proof
end

