-- ==== Sys2Proof/Config.lean ====
section
/-! DEFINITION. The constants the source fixes (00_scope.md R7), the block's two parameters at the values this spec
gives them (R8, DESIGN CHOICE, log entries 2 and 3), and the environment's open parameters as a record over which
statements quantify (R8, DESIGN CHOICE, log entries 11, 12, 14, 15, 23). -/

namespace Sys2Proof.Config

/-- Start marker, frame byte 0 (R7). -/
@[simp] abbrev START : Byte := 0x7E#8
/-- Protocol version, frame byte 1 (R7). -/
@[simp] abbrev VER : Byte := 0xFF#8
/-- Payload length, frame byte 2 (R7). -/
@[simp] abbrev LEN : Byte := 0x06#8
/-- Terminator, frame byte 9 (R7). -/
@[simp] abbrev END : Byte := 0xEF#8
/-- The preamble's fixed contribution `VER + LEN` (R7, R121). -/
@[simp] abbrev ACC_INIT : Half := 0x0105#16
/-- Reset value of `ACKREQ`: 1 in this spec (R8, decision D5). DESIGN CHOICE, log entry 3. -/
abbrev ACK_RESET : Bool := true

/-- The environment's sentinel opcode (R7). -/
@[simp] abbrev OVERDUE_OPCODE : Byte := 0x00#8
/-- The device's reset command (R8, R88). -/
@[simp] abbrev OP_RESET : Byte := 0x0C#8
/-- The "play" command (R88, R91). -/
@[simp] abbrev OP_PLAY : Byte := 0x03#8
/-- The "play finished" notification (R88, R167). -/
@[simp] abbrev OP_PLAY_FINISHED : Byte := 0x3D#8

end Sys2Proof.Config

namespace Sys2Proof

/-- A counter register, `CW` bits wide (R29 to R31): 32 in this spec (R8, decision D11). DESIGN CHOICE, log entry 2. -/
abbrev Counter := BitVec 32

/-- A monostable deadline: when it was set and for how long, both in milliseconds (R161). `tw` is the clock's width
`TW` (R174). -/
structure Deadline (tw : Nat) where
  tSet   : BitVec tw
  window : Nat
  deriving DecidableEq, Repr

/-- The open parameters of the environment (R8, decision D25), with the one constraint the source puts on them. No
statement may assume a value of one beyond it. Not state of any machine. -/
structure EnvConfig (tw : Nat) where
  /-- `T_BOOT_BUSY` -/
  tBootBusy      : Nat
  /-- `T_BOOT_OVERDUE` -/
  tBootOverdue   : Nat
  /-- `T_BOOT_OVERDUE > T_BOOT_BUSY` (R8, R164, 93 U13) -/
  bootOrder      : tBootBusy < tBootOverdue
  /-- `T_MEDIA_BUSY` -/
  tMediaBusy     : Nat
  /-- `T_SETTLE` -/
  tSettle        : Nat
  /-- `OP_MEDIA_SELECT` -/
  opMediaSelect  : Byte
  /-- `IS_NOTIFICATION` -/
  isNotification : Byte → Bool
  /-- `T_NOTIFY_EXTEND`: how much a notification extends the busy window (R169, 91 N19) -/
  tNotifyExtend  : Nat
  /-- From when that counts, for a busy deadline at a time: so many milliseconds after the notification. The source
  does not say (91 N19, DESIGN CHOICE, log entry 14). -/
  notifyFrom     : Deadline tw → BitVec tw → Nat
  /-- Whether a query about a medium sends a selection of it although another one is recorded as selected, the last
  one first. The source says only that an unset medium makes the first query send one (R176, 91 N21, DESIGN CHOICE,
  log entry 23). -/
  reselects      : Half → Half → Bool
  /-- What a send of an opcode other than `OP_RESET` makes of the overdue deadline at a time: `T_OVERDUE`, possibly
  "never armed" (91 N15, DESIGN CHOICE, log entry 11). -/
  overdueOther   : Byte → Option (Deadline tw) → BitVec tw → Option (Deadline tw)
  /-- Whether a completed frame, valid (`true`) or not, disarms the overdue deadline (91 N16, DESIGN CHOICE, log entry
  12). -/
  frameDisarms   : Bool → Bool
  /-- The parameter of the overdue handler call, any 16-bit value (91 N17, 93 U15, DESIGN CHOICE, log entry 11). -/
  overdueParam   : Deadline tw → BitVec tw → Half

end Sys2Proof
end

