-- ==== Sys2Proof/Machine/Flags.lean ====
section
/-! DEFINITION. The block's arithmetic and its one computed flag: the 16-bit checksum (30_encoding.md R76, R92) and
the well-formedness test (R77). -/

namespace Sys2Proof.Machine

/-- `zext_16(b)` (00_scope.md R9). -/
def zext16 (b : Byte) : Half := b.setWidth 16

/-- `ACC +_16 zext_16(b)`: positions 3 to 6 and 8 (R92 (a)). -/
def addByte (acc : Half) (b : Byte) : Half := acc + zext16 b

/-- `ACC +_16 (zext_16(b) << 8)`: position 7 (R92 (b), R130). -/
def addHigh (acc : Half) (b : Byte) : Half := acc + (zext16 b <<< 8)

/-- The zero test behind `CKOK`, on all 16 bits (R92 (c), R131). -/
def checksumOk (acc : Half) : Bool := acc == 0#16

/-- `S`, the sum of the six bytes at positions 1 to 6 (R76, R100). -/
def frameSum (op ack hi lo : Byte) : Half :=
  addByte (addByte (addByte (addByte Config.ACC_INIT op) ack) hi) lo

/-- `ck = 0 -_16 S` (R76, R92 (d)). -/
def checksum (op ack hi lo : Byte) : Half := 0#16 - frameSum op ack hi lo

/-- The 16-bit sum whose vanishing is the checksum test of R77: positions 1 to 6, plus position 7 shifted left 8,
plus position 8. -/
def receivedSum (op ack hi lo ckh ckl : Byte) : Half :=
  addByte (addHigh (frameSum op ack hi lo) ckh) ckl

/-- A complete or incomplete *well-formed frame* (R77): the preamble matches and the sum with the checksum is zero.
The terminator is not part of it. -/
def wellFormedFrame (f : Frame) : Bool :=
  f[0] == Config.START && f[1] == Config.VER && f[2] == Config.LEN &&
    checksumOk (receivedSum f[3] f[4] f[5] f[6] f[7] f[8])

/-- A *complete frame* (R77): well-formed, and the terminator matches. -/
def completeFrame (f : Frame) : Bool := wellFormedFrame f && f[9] == Config.END

end Sys2Proof.Machine
end

