-- ==== Sys2Proof/Machine/Operands.lean ====
section
/-! DEFINITION. Operand assembly and byte order: the two bytes of a 16-bit quantity (20_memory.md R51, R53,
30_encoding.md R74, R75), the ten bytes of a frame (R57, R70) and the 80-bit form of a frame (R70). -/

namespace Sys2Proof.Machine

/-- The high byte, bits 15 to 8 (R51, R74, R75). -/
def highByte (p : Half) : Byte := p.extractLsb' 8 8

/-- The low byte, bits 7 to 0 (R51, R74, R75). -/
def lowByte (p : Half) : Byte := p.extractLsb' 0 8

/-- `hi ++ lo` (R23, R53, R74). -/
def joinBytes (hi lo : Byte) : Half := hi ++ lo

/-- `zext_8` of a one-bit register: the transmitted ack byte, `0x00` or `0x01` (R28, R73, R100). -/
def ackByte (v : Bool) : Byte := if v then 0x01#8 else 0x00#8

/-- The ten bytes of a frame with the fixed bytes at positions 0, 1, 2, 9 (R57, R70). -/
def frameBytes (op ack hi lo ckh ckl : Byte) : Frame :=
  #v[Config.START, Config.VER, Config.LEN, op, ack, hi, lo, ckh, ckl, Config.END]

/-- The frame that the transmit side makes of three operands and an ack byte (R100, R107). -/
def encodedFrame (op ack hi lo : Byte) : Frame :=
  frameBytes op ack hi lo (highByte (checksum op ack hi lo)) (lowByte (checksum op ack hi lo))

/-- Byte `i` of an 80-bit frame value, byte 0 in bits 79 to 72 (R37, R70). -/
def wireByte (f : Wire) (i : Nat) : Byte := f.extractLsb' (8 * (9 - i)) 8

/-- The ten bytes of an 80-bit frame value, in wire order (R70). -/
def unpackFrame (f : Wire) : Frame :=
  #v[wireByte f 0, wireByte f 1, wireByte f 2, wireByte f 3, wireByte f 4,
     wireByte f 5, wireByte f 6, wireByte f 7, wireByte f 8, wireByte f 9]

/-- The 80-bit value of ten bytes, `tx_frame[79:0]` (R37, R70). -/
def packFrame (f : Frame) : Wire :=
  f[0] ++ f[1] ++ f[2] ++ f[3] ++ f[4] ++ f[5] ++ f[6] ++ f[7] ++ f[8] ++ f[9]

end Sys2Proof.Machine
end

