-- ==== Sys2Proof/Syntax.lean ====
section
/-! DEFINITION. The operations: one constructor per row of spec/opcode_table.json. -/

namespace Sys2Proof

/-- The instruction set. The first eight constructors are the command codes 0 to 7 of 30_encoding.md R81, the ninth
is the wire frame of R70, the last eleven are the receive positions of 41_rx_state_machine.md R122 to R133. Operand
bits that an operation does not use (R82) are no part of it. -/
inductive Instr where
  /-- `NOP` (R150) -/
  | nop
  /-- `FILL op, hi, lo` (R100) -/
  | fill (op hi lo : Byte)
  /-- `EMIT` (R103) -/
  | emit
  /-- `FEED byte` (R120) -/
  | feed (b : Byte)
  /-- `RXRESET` (R136) -/
  | rxreset
  /-- `SETACK v` (R102) -/
  | setack (v : Bool)
  /-- reserved command code 6 (R151) -/
  | rsv6
  /-- reserved command code 7 (R151) -/
  | rsv7
  /-- the wire frame, received: the ten bytes `7E FF 06 op ack hi lo ckh ckl EF` (R70) -/
  | frame (op ack hi lo ckh ckl : Byte)
  /-- a byte received at `IDX == 0`, start marker (R122) -/
  | rxpos0 (b : Byte)
  /-- a byte received at `IDX == 1`, version (R123) -/
  | rxpos1 (b : Byte)
  /-- a byte received at `IDX == 2`, length (R124) -/
  | rxpos2 (b : Byte)
  /-- a byte received at `IDX == 3`, opcode (R126) -/
  | rxpos3 (b : Byte)
  /-- a byte received at `IDX == 4`, ack flag (R127) -/
  | rxpos4 (b : Byte)
  /-- a byte received at `IDX == 5`, parameter high (R128) -/
  | rxpos5 (b : Byte)
  /-- a byte received at `IDX == 6`, parameter low (R129) -/
  | rxpos6 (b : Byte)
  /-- a byte received at `IDX == 7`, checksum high (R130) -/
  | rxpos7 (b : Byte)
  /-- a byte received at `IDX == 8`, checksum low (R131) -/
  | rxpos8 (b : Byte)
  /-- a byte received at `IDX == 9`, terminator (R132) -/
  | rxpos9 (b : Byte)
  /-- a byte received at `IDX >= 10`, outside the sequence (R133) -/
  | rxpos10 (b : Byte)
  deriving DecidableEq, Repr

end Sys2Proof
end

