-- ==== Sys2Proof/WellFormed.lean ====
section
/-! DEFINITION. Which operations are well-formed. The operands of a command word and of a receive position are bit
vectors of the width their row gives them, and "every one of the `2^24` combinations is legal" (40_tx_framer.md
R100), so only the wire frame can be ill-formed: its row carries the checksum constraint of 30_encoding.md R76, R77. -/

namespace Sys2Proof

/-- Well-formedness of an operation. A `FRAME` whose checksum is wrong is ill-formed as a frame (R77), yet the block
receives it like any ten bytes and reports it through `CKOK` (R131): it has a meaning too (DESIGN CHOICE, log entry
8). -/
def Instr.wellFormed (i : Instr) : Bool :=
  match i with
  | .frame op ack hi lo ckh ckl => Machine.wellFormedFrame (Machine.frameBytes op ack hi lo ckh ckl)
  | .nop | .fill _ _ _ | .emit | .feed _ | .rxreset | .setack _ | .rsv6 | .rsv7 => true
  | .rxpos0 _ | .rxpos1 _ | .rxpos2 _ | .rxpos3 _ | .rxpos4 _ | .rxpos5 _ => true
  | .rxpos6 _ | .rxpos7 _ | .rxpos8 _ | .rxpos9 _ | .rxpos10 _ => true

end Sys2Proof
end

