-- ==== Sys2Proof/Decode.lean ====
section
/-! DEFINITION. The three encodings of the opcode table (CMD27, WIRE80, RXBYTE), the decoder, total on every code and
rejecting by name, and the encoder (30_encoding.md R70, R80 to R83). -/

namespace Sys2Proof

/-- What a decoder is given: a 27-bit command word (R80), an 80-bit frame value (R70), or a received byte with the
position `IDX` that selects its row (opcode_table.json's `when`, DESIGN CHOICE, log entry 6). -/
inductive Code where
  | cmd  (w : Cmd)
  | wire (f : Wire)
  | rx   (idx : BitVec 4) (b : Byte)
  deriving DecidableEq, Repr

/-- Why a code is no instruction. -/
inductive DecodeError where
  /-- an 80-bit value whose bytes 0, 1, 2, 9 are not `7E FF 06 EF` (R70, R71) -/
  | notAFrame
  /-- a number with a bit set above the width of its row -/
  | tooWide
  deriving DecidableEq, Repr

/-- The decoder of command words: the code is bits 26 to 24, the fields `a`, `b`, `c` are bits 23 to 16, 15 to 8 and
7 to 0 (R80, R81). Bits an operation does not use are ignored (R82). -/
def decodeCmd (w : Cmd) : Instr :=
  match w.getLsbD 26, w.getLsbD 25, w.getLsbD 24 with
  | false, false, false => .nop
  | false, false, true  => .fill (w.extractLsb' 16 8) (w.extractLsb' 8 8) (w.extractLsb' 0 8)
  | false, true,  false => .emit
  | false, true,  true  => .feed (w.extractLsb' 0 8)
  | true,  false, false => .rxreset
  | true,  false, true  => .setack (w.getLsbD 0)
  | true,  true,  false => .rsv6
  | true,  true,  true  => .rsv7

/-- The row a received byte belongs to: `IDX` selects it, 10 to 15 alike (R120, R133). -/
def decodeRx (idx : BitVec 4) (b : Byte) : Instr :=
  match idx.toNat with
  | 0 => .rxpos0 b
  | 1 => .rxpos1 b
  | 2 => .rxpos2 b
  | 3 => .rxpos3 b
  | 4 => .rxpos4 b
  | 5 => .rxpos5 b
  | 6 => .rxpos6 b
  | 7 => .rxpos7 b
  | 8 => .rxpos8 b
  | 9 => .rxpos9 b
  | _ => .rxpos10 b

/-- The fixed bits of the wire frame: `mask = 0xFFFFFF000000000000FF`, `match = 0x7EFF06000000000000EF` (R70). -/
def isWireFrame (f : Wire) : Bool :=
  f &&& 0xFFFFFF000000000000FF#80 == 0x7EFF06000000000000EF#80

/-- The decoder of frame values: the fixed bits must match and the six other bytes are free (R70). The checksum is
not looked at (DESIGN CHOICE, log entry 8). -/
def decodeWire (f : Wire) : Except DecodeError Instr :=
  if isWireFrame f then
    .ok (.frame (Machine.wireByte f 3) (Machine.wireByte f 4) (Machine.wireByte f 5)
      (Machine.wireByte f 6) (Machine.wireByte f 7) (Machine.wireByte f 8))
  else .error .notAFrame

/-- The decoder. -/
def decode (c : Code) : Except DecodeError Instr :=
  match c with
  | .cmd w    => .ok (decodeCmd w)
  | .wire f   => decodeWire f
  | .rx idx b => .ok (decodeRx idx b)

/-- The command word `opc ++ a ++ b ++ c` (R80). -/
def cmdWord (opc : BitVec 3) (a b c : Byte) : Cmd := opc ++ a ++ b ++ c

/-- The encoder, canonical: operand bits an operation does not use are zero (R82). `RXPOS10+` is encoded at its first
position, 10. -/
def encode (i : Instr) : Code :=
  match i with
  | .nop                        => .cmd (cmdWord 0 0 0 0)
  | .fill op hi lo              => .cmd (cmdWord 1 op hi lo)
  | .emit                       => .cmd (cmdWord 2 0 0 0)
  | .feed b                     => .cmd (cmdWord 3 0 0 b)
  | .rxreset                    => .cmd (cmdWord 4 0 0 0)
  | .setack v                   => .cmd (cmdWord 5 0 0 (Machine.ackByte v))
  | .rsv6                       => .cmd (cmdWord 6 0 0 0)
  | .rsv7                       => .cmd (cmdWord 7 0 0 0)
  | .frame op ack hi lo ckh ckl => .wire (Machine.packFrame (Machine.frameBytes op ack hi lo ckh ckl))
  | .rxpos0 b                   => .rx 0 b
  | .rxpos1 b                   => .rx 1 b
  | .rxpos2 b                   => .rx 2 b
  | .rxpos3 b                   => .rx 3 b
  | .rxpos4 b                   => .rx 4 b
  | .rxpos5 b                   => .rx 5 b
  | .rxpos6 b                   => .rx 6 b
  | .rxpos7 b                   => .rx 7 b
  | .rxpos8 b                   => .rx 8 b
  | .rxpos9 b                   => .rx 9 b
  | .rxpos10 b                  => .rx 10 b

/-- The position at which the opcode table's rows are taken to be asked about a byte when no state says one: the
verify or terminator position whose fixed byte it is, else 3, the first position that accepts any byte. The table's
RXBYTE rows overlap and only `IDX` tells them apart (DESIGN CHOICE, log entry 9). -/
def tablePosition (b : Byte) : BitVec 4 :=
  if b = Config.START then 0 else if b = Config.VER then 1 else if b = Config.LEN then 2
  else if b = Config.END then 9 else 3

/-- A number of `nbits` bits as a code: 8 bits are a received byte, 80 bits a frame value, any other count a command
word (DESIGN CHOICE, log entry 9). -/
def tableCode (nbits w : Nat) : Except DecodeError Code :=
  match nbits with
  | 8  => if w < 2 ^ 8 then .ok (.rx (tablePosition (BitVec.ofNat 8 w)) (BitVec.ofNat 8 w)) else .error .tooWide
  | 80 => if w < 2 ^ 80 then .ok (.wire (BitVec.ofNat 80 w)) else .error .tooWide
  | _  => if w < 2 ^ 27 then .ok (.cmd (BitVec.ofNat 27 w)) else .error .tooWide

/-- The instruction the decoder reads from a number, bits numbered as opcode_table.json numbers them. -/
def decodeTableWord (nbits w : Nat) : Option Instr :=
  match tableCode nbits w with
  | .ok c    => (decode c).toOption
  | .error _ => none

end Sys2Proof
end

