-- ==== Sys2Proof/Machine/State.lean ====
section
/-! DEFINITION. The machine's state: the thirteen registers of 10_state.md R20 in their two sides, and the interface
of R37 as two lists of plain data (DESIGN CHOICE, log entry 4). -/

namespace Sys2Proof.Machine

/-- The transmit side (R20): `TXBUF`'s six mutable bytes, 3 to 8 (R21), `TXVALID` (R27), `ACKREQ` (R28). Bytes 0, 1,
2, 9 of `TXBUF` are hard-wired and read as constants by `TxRegs.buf`. -/
structure TxRegs where
  op      : Byte
  ack     : Byte
  hi      : Byte
  lo      : Byte
  ckh     : Byte
  ckl     : Byte
  txvalid : Bool
  ackreq  : Bool
  deriving DecidableEq, Repr

/-- The receive side (R20): the sequencer `IDX` (R24), the accumulator `ACC` (R25), the four field registers (R22),
`CKOK` (R26) and the three counters (R29 to R31). -/
structure RxRegs where
  idx    : BitVec 4
  acc    : Half
  rxop   : Byte
  rxack  : Byte
  rxph   : Byte
  rxpl   : Byte
  ckok   : Bool
  nbytes : Counter
  npkts  : Counter
  nerrs  : Counter
  deriving DecidableEq, Repr

/-- The response of one operation (R39): `rsp_done`, `rsp_err`, and the ten bytes emitted, if any (`tx_valid_o` and
`tx_frame`). -/
structure Response where
  done : Bool
  err  : Bool
  tx   : Option Frame
  deriving DecidableEq, Repr

/-- A pending input (DESIGN CHOICE, log entry 4). -/
inductive Input where
  /-- the ports `rst`, `cmd_valid`, `cmd[26:0]` at one clock edge (R37) -/
  | edge (rst cmdValid : Bool) (cmd : Cmd)
  /-- one byte of the RX stream given to the block, as by `FEED` (20_memory.md R50) -/
  | rxByte (b : Byte)
  /-- ten bytes of the RX stream given to the block in order, as by `FEEDS` (30_encoding.md R70, R90) -/
  | wire (f : Wire)
  deriving DecidableEq, Repr

/-- The state: the registers, the inputs still to come (oldest first) and the responses given (oldest first). -/
structure State where
  tx    : TxRegs
  rx    : RxRegs
  pins  : List Input
  trace : List Response
  deriving DecidableEq, Repr

/-- The faults: none. "A model needs no `fault` outcome for this block: the step function returns a next state for
every input" (60_exceptions.md R208). -/
inductive Fault
  deriving DecidableEq, Repr

/-- The refusals of the model (not the block's own refusals of R153, which are next states with `err = 1`). -/
inductive Refusal where
  /-- Raised by `exec` for an instruction that has no meaning yet; safe. No arm raises it now. -/
  | notModelled (mnemonic : String)
  deriving DecidableEq, Repr

/-- The transmit side after reset (R35). Bytes 3 to 8 of `TXBUF` are unspecified there; 0x00 is the model's choice
(DESIGN CHOICE, log entry 1), unobservable while `TXVALID` is 0. -/
def TxRegs.reset : TxRegs where
  op := 0x00#8
  ack := 0x00#8
  hi := 0x00#8
  lo := 0x00#8
  ckh := 0x00#8
  ckl := 0x00#8
  txvalid := false
  ackreq := Config.ACK_RESET

/-- The receive side after reset (R35). -/
def RxRegs.reset : RxRegs where
  idx := 0#4
  acc := Config.ACC_INIT
  rxop := 0x00#8
  rxack := 0x00#8
  rxph := 0x00#8
  rxpl := 0x00#8
  ckok := false
  nbytes := 0#32
  npkts := 0#32
  nerrs := 0#32

/-- The machine right after reset (R35, R220): no input pending and no response given yet (DESIGN CHOICE, log entry
4). -/
def State.reset : State where
  tx := TxRegs.reset
  rx := RxRegs.reset
  pins := []
  trace := []

end Sys2Proof.Machine
end

