-- ==== Sys2Proof/Machine/Ops.lean ====
section
/-! DEFINITION. The named operations over the registers: reading `TXBUF`, the cursor, the framing error (the block's
exception entry, 60_exceptions.md R200) with the return from it beside it (R202), refusal, and the response of an
operation (10_state.md R39). -/

namespace Sys2Proof.Machine

/-- `TXBUF[0..9]`: bytes 0, 1, 2, 9 are hard-wired (10_state.md R21). -/
def TxRegs.buf (t : TxRegs) : Frame := frameBytes t.op t.ack t.hi t.lo t.ckh t.ckl

/-- The response of an operation that neither completes a frame nor is refused nor emits (R39). -/
def Response.quiet : Response := ⟨false, false, none⟩

/-- The response of an operation with the one-bit result `done` (R32, R39). -/
def Response.result (done : Bool) : Response := ⟨done, false, none⟩

/-- The response of a refused operation (R153). -/
def Response.refusal : Response := ⟨false, true, none⟩

/-- The response of a performed `EMIT` (R39, R103). -/
def Response.emitted (f : Frame) : Response := ⟨false, false, some f⟩

/-- Gives the response of the operation just performed. -/
def respond (r : Response) (s : State) : State := { s with trace := s.trace ++ [r] }

/-- `refuse`: no register changes, `err <- 1`, `done <- 0`, no TX output (R10, R153). -/
def refuse (s : State) : State := respond Response.refusal s

/-- `TxWrite`: the ten bytes go out as one unit, in order (R10, R56). -/
def txWrite (f : Frame) (s : State) : State := respond (Response.emitted f) s

/-- `CursorReset()`: `IDX <- 0; ACC <- 0x0105`, and nothing else (R121). -/
def cursorReset (r : RxRegs) : RxRegs := { r with idx := 0#4, acc := Config.ACC_INIT }

/-- `raise FramingError`: `NERRS <- NERRS +_CW 1`, then `CursorReset()` (60_exceptions.md R191, R200). -/
def framingError (r : RxRegs) : RxRegs := cursorReset { r with nerrs := r.nerrs + 1#32 }

/-- The return from the complete state, `RXRESET`'s effect: the cursor is reset and nothing is restored, since
nothing was saved (R136, R202). -/
def releaseCursor (r : RxRegs) : RxRegs := cursorReset r

/-- `NBYTES <- NBYTES +_CW 1`: every `FEED`, first, unconditionally (R29, R120, R134). -/
def countByte (r : RxRegs) : RxRegs := { r with nbytes := r.nbytes + 1#32 }

/-- The verify positions' common rule (41_rx_state_machine.md R125): a match advances the cursor, a mismatch is a
framing error, with the optimistic resynchronisation when the byte is the start marker. -/
def verify (expected b : Byte) (r : RxRegs) : RxRegs :=
  if b = expected then { r with idx := r.idx + 1#4 }
  else if b = Config.START then { framingError r with idx := 1#4 }
  else framingError r

/-- Consumes one received byte by the rule of a position: count it, apply the rule, answer its `done` (R120). -/
def consume (rule : Byte → RxRegs → RxRegs × Bool) (b : Byte) (s : State) : State :=
  respond (Response.result (rule b (countByte s.rx)).2) { s with rx := (rule b (countByte s.rx)).1 }

/-- The hardware reset event: every register takes its reset value, whatever else is on the ports, and the response
is `done = 0`, `err = 0`, no TX output (R152, R220, R222). The inputs still to come and the responses already given
are not registers and stay (DESIGN CHOICE, log entry 16). -/
def hardReset (s : State) : State :=
  respond Response.quiet { s with tx := TxRegs.reset, rx := RxRegs.reset }

end Sys2Proof.Machine
end

