-- ==== Sys2Proof/Machine/Rx.lean ====
section
/-! DEFINITION. The receive family (41_rx_state_machine.md): one rule per frame position, `FEED`, `RXRESET`, and the
receive rows of the opcode table. A rule takes the byte and the receive registers, `NBYTES` already counted, and
answers the registers and `done`. -/

namespace Sys2Proof.Machine

/-- `IDX == 0`, start marker (R122). -/
def posStart (b : Byte) (r : RxRegs) : RxRegs × Bool := (verify Config.START b r, false)

/-- `IDX == 1`, version (R123). -/
def posVersion (b : Byte) (r : RxRegs) : RxRegs × Bool := (verify Config.VER b r, false)

/-- `IDX == 2`, length (R124). -/
def posLength (b : Byte) (r : RxRegs) : RxRegs × Bool := (verify Config.LEN b r, false)

/-- `IDX == 3`, opcode (R126). -/
def posOpcode (b : Byte) (r : RxRegs) : RxRegs × Bool :=
  ({ r with rxop := b, acc := addByte r.acc b, idx := 4#4 }, false)

/-- `IDX == 4`, ack flag (R127). -/
def posAck (b : Byte) (r : RxRegs) : RxRegs × Bool :=
  ({ r with rxack := b, acc := addByte r.acc b, idx := 5#4 }, false)

/-- `IDX == 5`, parameter high: the byte is added unshifted (R128). -/
def posParamHigh (b : Byte) (r : RxRegs) : RxRegs × Bool :=
  ({ r with rxph := b, acc := addByte r.acc b, idx := 6#4 }, false)

/-- `IDX == 6`, parameter low (R129). -/
def posParamLow (b : Byte) (r : RxRegs) : RxRegs × Bool :=
  ({ r with rxpl := b, acc := addByte r.acc b, idx := 7#4 }, false)

/-- `IDX == 7`, checksum high: added shifted left 8, kept in no register (R130). -/
def posCheckHigh (b : Byte) (r : RxRegs) : RxRegs × Bool :=
  ({ r with acc := addHigh r.acc b, idx := 8#4 }, false)

/-- `IDX == 8`, checksum low: `CKOK` is the zero test of the new accumulator (R131, R193). -/
def posCheckLow (b : Byte) (r : RxRegs) : RxRegs × Bool :=
  ({ r with acc := addByte r.acc b, ckok := checksumOk (addByte r.acc b), idx := 9#4 }, false)

/-- `IDX == 9`, terminator: completion whatever `CKOK` is, or a framing error without optimistic
resynchronisation (R132). -/
def posTerminator (b : Byte) (r : RxRegs) : RxRegs × Bool :=
  if b = Config.END then ({ r with npkts := r.npkts + 1#32, idx := 10#4 }, true) else (framingError r, false)

/-- `IDX >= 10`, outside the sequence: the cursor is reset and the byte discarded (R133, R194). -/
def posOutside (_ : Byte) (r : RxRegs) : RxRegs × Bool := (cursorReset r, false)

/-- The rule that `IDX` selects (R120). -/
def positionRule (idx : BitVec 4) : Byte → RxRegs → RxRegs × Bool :=
  match idx.toNat with
  | 0 => posStart
  | 1 => posVersion
  | 2 => posLength
  | 3 => posOpcode
  | 4 => posAck
  | 5 => posParamHigh
  | 6 => posParamLow
  | 7 => posCheckHigh
  | 8 => posCheckLow
  | 9 => posTerminator
  | _ => posOutside

/-- One received byte consumed at whatever `IDX` is (R120). -/
def feedByte (b : Byte) (s : State) : State := consume (positionRule s.rx.idx) b s

/-- Received bytes consumed in order (`FEEDS`, 30_encoding.md R90; the left fold of 20_memory.md R58 (b)). -/
def feedBytes (bs : List Byte) (s : State) : State := bs.foldl (fun t b => feedByte b t) s

/-- `FEED b` (R120). -/
def execFeed (b : Byte) (s : State) : Host.Outcome State Fault Refusal := .next (feedByte b s)

/-- `RXRESET` (R136). -/
def execRxreset (s : State) : Host.Outcome State Fault Refusal :=
  .next (respond Response.quiet { s with rx := releaseCursor s.rx })

/-- `FRAME`: its ten bytes are received in order (R70, R90, DESIGN CHOICE, log entry 7). -/
def execFrame (op ack hi lo ckh ckl : Byte) (s : State) : Host.Outcome State Fault Refusal :=
  .next (feedBytes (frameBytes op ack hi lo ckh ckl).toList s)

/-- `RXPOS0` (R122). A row applies at its own `IDX`; at another the byte is consumed by the row that `IDX` selects,
since exactly one arm runs per received byte (R120, DESIGN CHOICE, log entry 6). So for the rows below. -/
def execRxpos0 (b : Byte) (s : State) : Host.Outcome State Fault Refusal :=
  if s.rx.idx = 0#4 then .next (consume posStart b s) else .next (feedByte b s)

/-- `RXPOS1` (R123). -/
def execRxpos1 (b : Byte) (s : State) : Host.Outcome State Fault Refusal :=
  if s.rx.idx = 1#4 then .next (consume posVersion b s) else .next (feedByte b s)

/-- `RXPOS2` (R124). -/
def execRxpos2 (b : Byte) (s : State) : Host.Outcome State Fault Refusal :=
  if s.rx.idx = 2#4 then .next (consume posLength b s) else .next (feedByte b s)

/-- `RXPOS3` (R126). -/
def execRxpos3 (b : Byte) (s : State) : Host.Outcome State Fault Refusal :=
  if s.rx.idx = 3#4 then .next (consume posOpcode b s) else .next (feedByte b s)

/-- `RXPOS4` (R127). -/
def execRxpos4 (b : Byte) (s : State) : Host.Outcome State Fault Refusal :=
  if s.rx.idx = 4#4 then .next (consume posAck b s) else .next (feedByte b s)

/-- `RXPOS5` (R128). -/
def execRxpos5 (b : Byte) (s : State) : Host.Outcome State Fault Refusal :=
  if s.rx.idx = 5#4 then .next (consume posParamHigh b s) else .next (feedByte b s)

/-- `RXPOS6` (R129). -/
def execRxpos6 (b : Byte) (s : State) : Host.Outcome State Fault Refusal :=
  if s.rx.idx = 6#4 then .next (consume posParamLow b s) else .next (feedByte b s)

/-- `RXPOS7` (R130). -/
def execRxpos7 (b : Byte) (s : State) : Host.Outcome State Fault Refusal :=
  if s.rx.idx = 7#4 then .next (consume posCheckHigh b s) else .next (feedByte b s)

/-- `RXPOS8` (R131). -/
def execRxpos8 (b : Byte) (s : State) : Host.Outcome State Fault Refusal :=
  if s.rx.idx = 8#4 then .next (consume posCheckLow b s) else .next (feedByte b s)

/-- `RXPOS9` (R132). -/
def execRxpos9 (b : Byte) (s : State) : Host.Outcome State Fault Refusal :=
  if s.rx.idx = 9#4 then .next (consume posTerminator b s) else .next (feedByte b s)

/-- `RXPOS10+` (R133). -/
def execRxpos10 (b : Byte) (s : State) : Host.Outcome State Fault Refusal :=
  if 10#4 ≤ s.rx.idx then .next (consume posOutside b s) else .next (feedByte b s)

end Sys2Proof.Machine
end

