-- ==== Sys2Proof/Machine/System.lean ====
section
/-! DEFINITION. The system operations of 42_system_ops.md (`NOP` and the reserved command codes) and the status
outputs of 10_state.md R38 with the port outputs of R37. -/

namespace Sys2Proof.Machine

/-- `NOP` does nothing (R150). -/
def execNop (s : State) : Host.Outcome State Fault Refusal := .next (respond Response.quiet s)

/-- Reserved command code 6: refused by the block, a next state with `err = 1` (R151, R153,
DESIGN CHOICE, log entry 19). -/
def execRsv6 (s : State) : Host.Outcome State Fault Refusal := .next (refuse s)

/-- Reserved command code 7: refused by the block, a next state with `err = 1` (R151, R153,
DESIGN CHOICE, log entry 19). -/
def execRsv7 (s : State) : Host.Outcome State Fault Refusal := .next (refuse s)

/-- The status outputs (R38). -/
structure Status where
  rxComplete : Bool
  rxCkok     : Bool
  rxOpcode   : Byte
  rxAck      : Byte
  rxParam    : Half
  nBytes     : Counter
  nPkts      : Counter
  nErrs      : Counter
  txValid    : Bool
  ackReq     : Bool
  deriving DecidableEq, Repr

/-- The status outputs, pure functions of the registers (R38, R154). -/
def status (s : State) : Status where
  rxComplete := s.rx.idx == 10#4
  rxCkok := s.rx.ckok
  rxOpcode := s.rx.rxop
  rxAck := s.rx.rxack
  rxParam := joinBytes s.rx.rxph s.rx.rxpl
  nBytes := s.rx.nbytes
  nPkts := s.rx.npkts
  nErrs := s.rx.nerrs
  txValid := s.tx.txvalid
  ackReq := s.tx.ackreq

/-- The response of the operation just performed, quiet before the first (R37, R39). -/
def lastResponse (s : State) : Response := s.trace.getLast?.getD Response.quiet

/-- `tx_valid_o`: 1 in the cycle in which an `EMIT` was performed (R37). -/
def txValidOut (s : State) : Bool := (lastResponse s).tx.isSome

/-- `tx_frame[79:0]`, meaningful when `tx_valid_o == 1` (R37). -/
def txFrameOut (s : State) : Option Wire := (lastResponse s).tx.map packFrame

/-- The TX stream: the concatenation, in issue order, of the outputs of the performed `EMIT`s (R56, R58 (c), R238). -/
def txStream (s : State) : List Byte :=
  s.trace.flatMap fun r => match r.tx with
    | some f => f.toList
    | none => []

end Sys2Proof.Machine
end

