-- ==== Sys2Proof/Machine/Tx.lean ====
section
/-! DEFINITION. The transmit family (40_tx_framer.md): `FILL`, `SETACK`, `EMIT`. -/

namespace Sys2Proof.Machine

/-- The registers after `FILL`: the six mutable bytes and `TXVALID` (R100). The ack byte is `zext_8(ACKREQ)`. -/
def fillRegs (op hi lo : Byte) (t : TxRegs) : TxRegs :=
  { t with
    op := op
    ack := ackByte t.ackreq
    hi := hi
    lo := lo
    ckh := highByte (checksum op (ackByte t.ackreq) hi lo)
    ckl := lowByte (checksum op (ackByte t.ackreq) hi lo)
    txvalid := true }

/-- `FILL op, hi, lo` encodes one frame into the transmit buffer (R100). -/
def execFill (op hi lo : Byte) (s : State) : Host.Outcome State Fault Refusal :=
  .next (respond Response.quiet { s with tx := fillRegs op hi lo s.tx })

/-- `SETACK v` sets whether later frames request an acknowledgement (R102). -/
def execSetack (v : Bool) (s : State) : Host.Outcome State Fault Refusal :=
  .next (respond Response.quiet { s with tx := { s.tx with ackreq := v } })

/-- `EMIT` writes the encoded frame to the TX stream, or is refused when no `FILL` has been performed since reset
(R103). It changes no register. -/
def execEmit (s : State) : Host.Outcome State Fault Refusal :=
  if s.tx.txvalid then .next (txWrite s.tx.buf s) else .next (refuse s)

end Sys2Proof.Machine
end

