-- ==== Sys2Proof/Machine/Dispatch.lean ====
section
/-! DEFINITION. One arm per constructor of Instr, each one direct call of its meaning. -/

namespace Sys2Proof.Machine

def exec (i : Instr) (s : State) : Host.Outcome State Fault Refusal :=
  match i with
  | .nop => Sys2Proof.Machine.execNop s
  | .fill op hi lo => Sys2Proof.Machine.execFill op hi lo s
  | .emit => Sys2Proof.Machine.execEmit s
  | .feed b => Sys2Proof.Machine.execFeed b s
  | .rxreset => Sys2Proof.Machine.execRxreset s
  | .setack v => Sys2Proof.Machine.execSetack v s
  | .rsv6 => Sys2Proof.Machine.execRsv6 s
  | .rsv7 => Sys2Proof.Machine.execRsv7 s
  | .frame op ack hi lo ckh ckl => Sys2Proof.Machine.execFrame op ack hi lo ckh ckl s
  | .rxpos0 b => Sys2Proof.Machine.execRxpos0 b s
  | .rxpos1 b => Sys2Proof.Machine.execRxpos1 b s
  | .rxpos2 b => Sys2Proof.Machine.execRxpos2 b s
  | .rxpos3 b => Sys2Proof.Machine.execRxpos3 b s
  | .rxpos4 b => Sys2Proof.Machine.execRxpos4 b s
  | .rxpos5 b => Sys2Proof.Machine.execRxpos5 b s
  | .rxpos6 b => Sys2Proof.Machine.execRxpos6 b s
  | .rxpos7 b => Sys2Proof.Machine.execRxpos7 b s
  | .rxpos8 b => Sys2Proof.Machine.execRxpos8 b s
  | .rxpos9 b => Sys2Proof.Machine.execRxpos9 b s
  | .rxpos10 b => Sys2Proof.Machine.execRxpos10 b s

end Sys2Proof.Machine
end

