-- ==== Sys2Proof/Machine/Fetch.lean ====
section
/-! DEFINITION. Fetching: what one pending input makes the block do, and where a table word is placed to be the next
input (DESIGN CHOICE, log entries 4, 5, 9). The block has no instruction memory (20_memory.md R52). -/

namespace Sys2Proof.Machine

/-- Ten bytes that are no frame are still received one by one (R90, DESIGN CHOICE, log entry 10). -/
def execTenBytes (f : Wire) (s : State) : Host.Outcome State Fault Refusal :=
  .next (feedBytes (unpackFrame f).toList s)

/-- One input acted on. Reset wins over a command (R222). With no command the block does what `NOP` does (R150). -/
def execInput (p : Input) (s : State) : Host.Outcome State Fault Refusal :=
  match p with
  | .edge true _ _      => .next (hardReset s)
  | .edge false false _ => exec .nop s
  | .edge false true w  => exec (decodeCmd w) s
  | .rxByte b           => exec (decodeRx s.rx.idx b) s
  | .wire f =>
    match decodeWire f with
    | .ok i    => exec i s
    | .error _ => execTenBytes f s

/-- One clock edge: the oldest pending input is taken. With none pending no command is presented, and the block does
what it does in a cycle with `cmd_valid == 0` (R150, R211, DESIGN CHOICE, log entry 5). -/
def execNext (s : State) : Host.Outcome State Fault Refusal :=
  match s.pins with
  | []        => exec .nop s
  | p :: rest => execInput p { s with pins := rest }

/-- Sets the cursor's position, for `placeWord` only. -/
def withIdx (idx : BitVec 4) (s : State) : State := { s with rx := { s.rx with idx := idx } }

/-- A table word put where the next step takes its input: a command word on the command port, a frame value or a byte
on the RX stream. For a byte, `IDX` is set to the position whose row the decoder reads from it (DESIGN CHOICE, log
entry 9). -/
def placeWord (nbits w : Nat) (s : State) : State :=
  match nbits with
  | 8  => withIdx (tablePosition (BitVec.ofNat 8 w)) { s with pins := .rxByte (BitVec.ofNat 8 w) :: s.pins }
  | 80 => { s with pins := .wire (BitVec.ofNat 80 w) :: s.pins }
  | _  => { s with pins := .edge false true (BitVec.ofNat 27 w) :: s.pins }

end Sys2Proof.Machine
end

