-- ==== Sys2Proof/Machine/Step.lean ====
section
/-! DEFINITION. The step function of the machine: one clock edge. -/

namespace Sys2Proof.Machine

/-- One step: the oldest pending input is taken and acted on (70_reset_and_hazards.md R234: every operation completes
in the cycle in which it is presented). -/
def step (s : State) : Host.Outcome State Fault Refusal := execNext s

/-- `s` with a table word as its next input, so that the very next step runs it (DESIGN CHOICE, log entries 5, 9). -/
def State.withFetchWord (s : State) (nbits w : Nat) : State := placeWord nbits w s

end Sys2Proof.Machine
end

