-- ==== Sys2Proof/Machine/Events.lean ====
section
/-! DEFINITION. The abnormal events of 60_exceptions.md R190, as names for what an operation raises. The block records
none of them: it has no cause register. -/

namespace Sys2Proof.Machine

/-- The codes of R190. -/
inductive Event where
  /-- `FE0`: framing error at the start marker -/
  | fe0
  /-- `FE1`: framing error at the version -/
  | fe1
  /-- `FE2`: framing error at the length -/
  | fe2
  /-- `FE9`: framing error at the terminator -/
  | fe9
  /-- `CKM`: checksum mismatch, a flag and no exception (R193) -/
  | ckm
  /-- `DEF`: defensive reset (R194) -/
  | defensive
  /-- `REF_EMIT`: refused `EMIT` (R195) -/
  | refEmit
  /-- `REF_RSV`: refused reserved command (R195) -/
  | refRsv
  /-- `BUSY`: link busy, raised by the environment's `send` (R209) -/
  | busy
  /-- `OVD`: response overdue, raised by the environment's `poll` (R209) -/
  | overdue
  deriving DecidableEq, Repr

/-- The events that are framing errors, class (b) (R190, R191). -/
def Event.isFraming (e : Event) : Bool :=
  match e with
  | .fe0 | .fe1 | .fe2 | .fe9 => true
  | .ckm | .defensive | .refEmit | .refRsv | .busy | .overdue => false

/-- The event a received byte raises: at most one (R199). -/
def byteEvent (b : Byte) (r : RxRegs) : Option Event :=
  match r.idx.toNat with
  | 0 => if b = Config.START then none else some .fe0
  | 1 => if b = Config.VER then none else some .fe1
  | 2 => if b = Config.LEN then none else some .fe2
  | 3 | 4 | 5 | 6 | 7 => none
  | 8 => if checksumOk (addByte r.acc b) then none else some .ckm
  | 9 => if b = Config.END then none else some .fe9
  | _ => some .defensive

/-- The events that bytes received in order raise. -/
def byteEvents (bs : List Byte) (s : State) : List Event :=
  match bs with
  | []      => []
  | b :: cs => (byteEvent b s.rx).toList ++ byteEvents cs (feedByte b s)

/-- The events an operation raises, in order (R190). -/
def events (i : Instr) (s : State) : List Event :=
  match i with
  | .nop | .fill _ _ _ | .rxreset | .setack _ => []
  | .emit => if s.tx.txvalid then [] else [.refEmit]
  | .rsv6 | .rsv7 => [.refRsv]
  | .feed b => byteEvents [b] s
  | .frame op ack hi lo ckh ckl => byteEvents (frameBytes op ack hi lo ckh ckl).toList s
  | .rxpos0 b | .rxpos1 b | .rxpos2 b | .rxpos3 b | .rxpos4 b | .rxpos5 b => byteEvents [b] s
  | .rxpos6 b | .rxpos7 b | .rxpos8 b | .rxpos9 b | .rxpos10 b => byteEvents [b] s

end Sys2Proof.Machine
end

