-- ==== Sys2Proof/Machine/Run.lean ====
section
/-! DEFINITION. Runs of operations (70_reset_and_hazards.md R238), the pseudo-operations, which are short runs
(30_encoding.md R90, R91), and the host that releases the cursor after each frame (43_environment.md R170). -/

namespace Sys2Proof.Machine

/-- A finite sequence of operations, in issue order (R58 (a), R238). -/
def runOps : List Instr → State → Host.Outcome State Fault Refusal
  | [], s => .next s
  | i :: is, s =>
    match exec i s with
    | .next t    => runOps is t
    | .fault r   => .fault r
    | .refused r => .refused r

/-- The events that a run raises, in order (R190). -/
def runEvents : List Instr → State → List Event
  | [], _ => []
  | i :: is, s =>
    match exec i s with
    | .next t    => events i s ++ runEvents is t
    | .fault _   => events i s
    | .refused _ => events i s

/-- `FILL16 op, p` is `FILL op, p[15:8], p[7:0]`, high byte first (R90, R101). -/
def fill16 (op : Byte) (p : Half) : Instr := .fill op (highByte p) (lowByte p)

/-- `SEND op, p` is `FILL16 op, p` followed by `EMIT` (R90, R104). -/
def sendOps (op : Byte) (p : Half) : List Instr := [fill16 op p, .emit]

/-- `FEEDS b0 b1 ... bn` (R90). -/
def feeds (bs : List Byte) : List Instr := bs.map .feed

/-- `play(n)` is `send(0x03, n)` (R91). -/
def playOps (n : Half) : List Instr := sendOps Config.OP_PLAY n

/-- One byte received by a host that keeps 43_environment.md R170: `FEED`, and `RXRESET` when it completed a frame. -/
def serveByte (b : Byte) (s : State) : Host.Outcome State Fault Refusal :=
  match exec (.feed b) s with
  | .next t    => if (lastResponse t).done then exec .rxreset t else .next t
  | .fault r   => .fault r
  | .refused r => .refused r

/-- Bytes received in order by such a host (R166, R170). -/
def serveBytes : List Byte → State → Host.Outcome State Fault Refusal
  | [], s => .next s
  | b :: bs, s =>
    match serveByte b s with
    | .next t    => serveBytes bs t
    | .fault r   => .fault r
    | .refused r => .refused r

/-- The bytes an operation feeds, in order. -/
def fedBytes (i : Instr) : List Byte :=
  match i with
  | .nop | .fill _ _ _ | .emit | .rxreset | .setack _ | .rsv6 | .rsv7 => []
  | .feed b => [b]
  | .frame op ack hi lo ckh ckl => (frameBytes op ack hi lo ckh ckl).toList
  | .rxpos0 b | .rxpos1 b | .rxpos2 b | .rxpos3 b | .rxpos4 b | .rxpos5 b => [b]
  | .rxpos6 b | .rxpos7 b | .rxpos8 b | .rxpos9 b | .rxpos10 b => [b]

end Sys2Proof.Machine
end

