-- ==== Sys2Proof/Machine/Driver.lean ====
section
/-! DEFINITION. The environment of 43_environment.md, a machine of its own on top of the block: `send`, `poll`, the
two deadlines, the handler calls, the byte channel, the wait helper, the read-state query. None of it is the block's state or step
(00_scope.md R5); its open parameters come in as an `EnvConfig`. -/

namespace Sys2Proof.Machine

/-- One call of the handler, `handler(opcode, parameter)` (R172), recorded and not run (DESIGN CHOICE, log entry 21). -/
structure HandlerCall where
  op    : Byte
  param : Half
  deriving DecidableEq, Repr

/-- The event kinds of R167; the source gives one classification. -/
inductive EventKind where
  | playFinished
  | unclassified
  deriving DecidableEq, Repr

/-- The environment's state around one block (R160). -/
structure Driver (tw : Nat) where
  /-- the block -/
  block    : State
  /-- `BUSY` (R161) -/
  busy     : Deadline tw
  /-- `OVERDUE` with its armed flag: absent when not armed (R162) -/
  overdue  : Option (Deadline tw)
  /-- the time of the last send (R160) -/
  lastSend : BitVec tw
  /-- the last medium selected, absent when "unset" (R176) -/
  medium   : Option Half
  /-- the bytes available on the channel, oldest first (R173, DESIGN CHOICE, log entry 22) -/
  channel  : List Byte
  /-- the handler calls made, oldest first (R172) -/
  calls    : List HandlerCall
  deriving DecidableEq, Repr

/-- The environment at the start: not busy, not armed, medium unset (R161, R162, R176), DESIGN CHOICE, log entry 13. -/
def Driver.init (tw : Nat) : Driver tw where
  block := State.reset
  busy := ⟨0, 0⟩
  overdue := none
  lastSend := 0
  medium := none
  channel := []
  calls := []

/-- A deadline has not expired: `(now -_TW t_set) < window` (R161), for both deadlines
(R162, DEDUCED, log entry 20). -/
def runningAt {tw : Nat} (t : Deadline tw) (now : BitVec tw) : Bool := (now - t.tSet).toNat < t.window

/-- What is left of a deadline's window, 0 once it has expired: the "duration remaining" of R161. -/
def remaining {tw : Nat} (t : Deadline tw) (now : BitVec tw) : Nat := t.window - (now - t.tSet).toNat

/-- The environment issues an operation to the block. -/
def issue (i : Instr) (s : State) : State :=
  match exec i s with
  | .next t    => t
  | .fault _   => s
  | .refused _ => s

/-- The classification of an opcode (R167). -/
def classify (op : Byte) : EventKind := if op = Config.OP_PLAY_FINISHED then .playFinished else .unclassified

/-- The windows armed by a successful `send`, by opcode (R164). -/
def armWindows {tw : Nat} (cfg : EnvConfig tw) (now : BitVec tw) (op : Byte) (d : Driver tw) : Driver tw :=
  if op = Config.OP_RESET then
    { d with busy := ⟨now, cfg.tBootBusy⟩, overdue := some ⟨now, cfg.tBootOverdue⟩ }
  else if op = cfg.opMediaSelect then
    { d with busy := ⟨now, cfg.tMediaBusy⟩, overdue := cfg.overdueOther op d.overdue now }
  else
    { d with
      busy := ⟨now, if d.block.tx.ackreq then 0 else cfg.tSettle⟩
      overdue := cfg.overdueOther op d.overdue now }

/-- The medium selected by the caller (R176): recorded when a medium-select command is sent (PRESUMED, log entry 15). -/
def noteMedium {tw : Nat} (cfg : EnvConfig tw) (op hi lo : Byte) (d : Driver tw) : Driver tw :=
  if op = cfg.opMediaSelect then { d with medium := some (joinBytes hi lo) } else d

/-- The two operations of a send (R163). -/
def transmit (op hi lo : Byte) (s : State) : State := issue .emit (issue (.fill op hi lo) s)

/-- `send(op, hi, lo)`: fails without any operation while busy, else `FILL`, `EMIT`, and the windows are armed
(R163, R165). -/
def send {tw : Nat} (cfg : EnvConfig tw) (now : BitVec tw) (op hi lo : Byte) (d : Driver tw) : Driver tw × Bool :=
  if runningAt d.busy now then (d, false)
  else
    (armWindows cfg now op
      (noteMedium cfg op hi lo { d with block := transmit op hi lo d.block, lastSend := now }), true)

/-- `send(op, param)`, high byte first (R163, R101). -/
def send16 {tw : Nat} (cfg : EnvConfig tw) (now : BitVec tw) (op : Byte) (p : Half) (d : Driver tw) :
    Driver tw × Bool :=
  send cfg now op (highByte p) (lowByte p) d

/-- The event a `send` raises, class (a) (R177, R190). -/
def sendEvent {tw : Nat} (now : BitVec tw) (d : Driver tw) : Option Event :=
  if runningAt d.busy now then some .busy else none

/-- `play(n)` (R91). -/
def play {tw : Nat} (cfg : EnvConfig tw) (now : BitVec tw) (n : Half) (d : Driver tw) : Driver tw × Bool :=
  send16 cfg now Config.OP_PLAY n d

/-- Whether a query about medium `m` sends a selection first: always while the medium is "unset" (R176), and by the
open parameter when one is recorded (log entry 23). -/
def needsSelection {tw : Nat} (cfg : EnvConfig tw) (m : Half) : Option Half → Bool
  | none      => true
  | some last => cfg.reselects last m

/-- A read-state query about medium `m`, the command `op`, `hi`, `lo`: the selection is sent first where one is needed,
so the first query is preceded by a selection (R176, R224). Answers whether the query itself was sent; while the link
is busy with the selection it is not, and the caller retries (R165, DESIGN CHOICE, log entry 23). -/
def query {tw : Nat} (cfg : EnvConfig tw) (now : BitVec tw) (m : Half) (op hi lo : Byte) (d : Driver tw) :
    Driver tw × Bool :=
  if needsSelection cfg m d.medium then
    if (send16 cfg now cfg.opMediaSelect m d).2 then send cfg now op hi lo (send16 cfg now cfg.opMediaSelect m d).1
    else (d, false)
  else send cfg now op hi lo d

/-- Calls the handler (R172). -/
def callHandler {tw : Nat} (op : Byte) (p : Half) (d : Driver tw) : Driver tw :=
  { d with calls := d.calls ++ [⟨op, p⟩] }

/-- What a notification at `now` leaves of the busy window: `T_NOTIFY_EXTEND` from the instant it counts from, and
never less than was left (R169, DESIGN CHOICE, log entry 14). -/
def extendedWindow {tw : Nat} (cfg : EnvConfig tw) (t : Deadline tw) (now : BitVec tw) : Nat :=
  max (remaining t now) (cfg.notifyFrom t now + cfg.tNotifyExtend)

/-- A notification extends the busy window (R169). -/
def extendBusy {tw : Nat} (cfg : EnvConfig tw) (now : BitVec tw) (d : Driver tw) : Driver tw :=
  if cfg.isNotification d.block.rx.rxop then { d with busy := ⟨now, extendedWindow cfg d.busy now⟩ } else d

/-- A valid frame is forwarded to the handler, `(rx_opcode, rx_param)` (R167); an invalid one is dropped (R168). -/
def forward {tw : Nat} (cfg : EnvConfig tw) (now : BitVec tw) (d : Driver tw) : Driver tw :=
  if d.block.rx.ckok then
    callHandler d.block.rx.rxop (joinBytes d.block.rx.rxph d.block.rx.rxpl) (extendBusy cfg now d)
  else d

/-- A completed frame may disarm the overdue deadline (R162, DESIGN CHOICE, log entry 12). -/
def disarmByFrame {tw : Nat} (cfg : EnvConfig tw) (d : Driver tw) : Driver tw :=
  if cfg.frameDisarms d.block.rx.ckok then { d with overdue := none } else d

/-- What the environment does after a `FEED` that returned `done = 1`: read, forward or drop, then `RXRESET`
(R166, R170). -/
def afterFrame {tw : Nat} (cfg : EnvConfig tw) (now : BitVec tw) (d : Driver tw) : Driver tw :=
  { forward cfg now (disarmByFrame cfg d) with block := issue .rxreset d.block }

/-- One byte taken from the channel and fed (R166, R173). -/
def takeByte {tw : Nat} (cfg : EnvConfig tw) (now : BitVec tw) (b : Byte) (d : Driver tw) : Driver tw :=
  if (lastResponse (issue (.feed b) d.block)).done then afterFrame cfg now { d with block := issue (.feed b) d.block }
  else { d with block := issue (.feed b) d.block }

/-- The byte loop of `poll`, bounded by a count taken at entry (R166). -/
def takeBytes {tw : Nat} (cfg : EnvConfig tw) (now : BitVec tw) : Nat → Driver tw → Driver tw
  | 0, d => d
  | n + 1, d =>
    match d.channel with
    | []        => d
    | b :: rest => takeBytes cfg now n (takeByte cfg now b { d with channel := rest })

/-- The overdue test of `poll`: at most once per arming (R171, 90 C10). -/
def overdueTest {tw : Nat} (cfg : EnvConfig tw) (now : BitVec tw) (d : Driver tw) : Driver tw :=
  match d.overdue with
  | none   => d
  | some t =>
    if runningAt t now then d
    else { callHandler Config.OVERDUE_OPCODE (cfg.overdueParam t now) d with overdue := none }

/-- `poll()`: the bytes available at entry, then the overdue test once (R166, decision D28), at one
clock reading (DESIGN CHOICE, log entry 18). -/
def poll {tw : Nat} (cfg : EnvConfig tw) (now : BitVec tw) (d : Driver tw) : Driver tw :=
  overdueTest cfg now (takeBytes cfg now d.channel.length d)

/-- The event a `poll` raises beyond the block's own, class (d) (R177, R190). -/
def pollEvent {tw : Nat} (cfg : EnvConfig tw) (now : BitVec tw) (d : Driver tw) : Option Event :=
  match (takeBytes cfg now d.channel.length d).overdue with
  | none   => none
  | some t => if runningAt t now then none else some .overdue

/-- Bytes arrive on the channel (R173). -/
def arrive {tw : Nat} (bs : List Byte) (d : Driver tw) : Driver tw := { d with channel := d.channel ++ bs }

/-- The "wait until available or timeout" helper (R175): at each turn of the scheduler, a clock reading and the bytes
that arrived since the last, it polls, succeeds when what is waited for is there, and gives up when the timeout has
elapsed (DESIGN CHOICE, log entry 17). It never succeeds without turns. -/
def waitUntil {tw : Nat} (cfg : EnvConfig tw) (available : Driver tw → Bool) (timeout : Deadline tw) :
    List (BitVec tw × List Byte) → Driver tw → Driver tw × Bool
  | [], d => (d, false)
  | (now, bs) :: turns, d =>
    if available (poll cfg now (arrive bs d)) then (poll cfg now (arrive bs d), true)
    else if runningAt timeout now then waitUntil cfg available timeout turns (poll cfg now (arrive bs d))
    else (poll cfg now (arrive bs d), false)

end Sys2Proof.Machine
end

