-- ==== Sys2Proof/Safety.lean ====
section
/-! DEFINITION. What the claims call a good state and a safe use: the invariants of 10_state.md R36, the host's rule
of 70_reset_and_hazards.md R225, the hunting positions of 41_rx_state_machine.md R142. -/

namespace Sys2Proof.Machine

/-- R36 (a), (b), (d): the cursor is at a position of the sequence or complete; at the verify positions and before the
first accepted byte the accumulator holds the preamble's contribution; a valid `TXBUF` is a complete well-formed
frame with an ack byte 0 or 1. R36 (c) holds by construction of `TxRegs.buf`. -/
abbrev Inv (s : State) : Prop :=
  s.rx.idx ≤ 10#4 ∧
  (s.rx.idx ≤ 3#4 → s.rx.acc = Config.ACC_INIT) ∧
  (s.tx.txvalid = true →
    completeFrame s.tx.buf = true ∧ (s.tx.ack = 0x00#8 ∨ s.tx.ack = 0x01#8))

/-- The receiver is at a verify position, where a fresh frame is found (R140, R142). -/
abbrev Hunting (s : State) : Prop := s.rx.idx ≤ 2#4

/-- The bytes of a frame in progress that no counter accounts for yet: `IDX` inside the sequence, none once complete
(R207). -/
def progress (r : RxRegs) : Nat := if r.idx ≤ 9#4 then r.idx.toNat else 0

/-- The monitor's inequality of R207 with the frame in progress: `NBYTES >= 10 * NPKTS + NERRS`. -/
abbrev CountInv (r : RxRegs) : Prop := 10 * r.npkts.toNat + r.nerrs.toNat + progress r ≤ r.nbytes.toNat

/-- No byte of these, fed in order, finds the cursor past the sequence, where a completed frame is held. -/
def feedsObey : List Byte → State → Bool
  | [], _ => true
  | b :: bs, s => decide (s.rx.idx < 10#4) && feedsObey bs (feedByte b s)

/-- The host keeps R225: no byte is fed while a completed frame is held. -/
def obeysReset (i : Instr) (s : State) : Bool := feedsObey (fedBytes i) s

/-- Every operation of a run keeps R225 in the state in which it is issued. -/
def obeysRun : List Instr → State → Bool
  | [], _ => true
  | i :: is, s =>
    obeysReset i s &&
      match exec i s with
      | .next t    => obeysRun is t
      | .fault _   => true
      | .refused _ => true

/-- The host keeps R225 by what it sees, the responses alone: after a `done` (`held`) it feeds nothing before an
`RXRESET`, and no operation feeds on past a `done` of its own. -/
def releasesRun : Bool → List Instr → State → Bool
  | _, [], _ => true
  | held, i :: is, s =>
    match exec i s with
    | .next t =>
      if fedBytes i = [] then releasesRun (held && decide (i ≠ .rxreset)) is t
      else !held && ((t.trace.drop s.trace.length).dropLast.all fun r => !r.done) &&
        releasesRun (lastResponse t).done is t
    | .fault _   => true
    | .refused _ => true

end Sys2Proof.Machine
end

