-- ==== Sys2Proof/Certificates/Slice0/Obligations.lean ====
section
/-! DEFINITION. The statements for the provers, from the numbered rules of spec/. Where a rule is marked in the spec
as derived, its statement is too (basis 'derived'). Where a rule rests on a decision of the spec (92_eei_decisions.md),
the docstring names it. -/

open Sys2Proof Sys2Proof.Machine

/-! ## Encodings -/

/-- Decoding an encoding gives the instruction back, for every instruction and every operand (30_encoding.md R70,
R80, R81, opcode_table.json). -/
def Obligations.EncodedInstructionDecodesBack : Prop :=
  ∀ i : Instr, decode (encode i) = .ok i

/-- 30_encoding.md R81, R82 (decisions D2, D17): `opc` in bits 26 to 24 selects the operation, `a`, `b`, `c` are its
operands where it has them, and operand bits it does not use select the same operation whatever they are; the
canonical encoding has them zero. That codes 6 and 7 decode to instructions, where 42_system_ops.md R151 has a decoder
return "invalid", is the model's choice (log entry 19). -/
def Obligations.UnusedOperandBitsIgnored : Prop :=
  (∀ v : Bool, encode (.setack v) = .cmd (5#3 ++ 0#8 ++ 0#8 ++ (if v then 1#8 else 0#8))) ∧
  encode .nop = .cmd (0#3 ++ 0#8 ++ 0#8 ++ 0#8) ∧ encode .emit = .cmd (2#3 ++ 0#8 ++ 0#8 ++ 0#8) ∧
  encode .rxreset = .cmd (4#3 ++ 0#8 ++ 0#8 ++ 0#8) ∧
  ∀ a b c : Byte,
    encode (.fill a b c) = .cmd (1#3 ++ a ++ b ++ c) ∧
    encode (.feed c) = .cmd (3#3 ++ 0#8 ++ 0#8 ++ c) ∧
    decode (.cmd (0#3 ++ a ++ b ++ c)) = .ok .nop ∧
    decode (.cmd (1#3 ++ a ++ b ++ c)) = .ok (.fill a b c) ∧
    decode (.cmd (2#3 ++ a ++ b ++ c)) = .ok .emit ∧
    decode (.cmd (3#3 ++ a ++ b ++ c)) = .ok (.feed c) ∧
    decode (.cmd (4#3 ++ a ++ b ++ c)) = .ok .rxreset ∧
    decode (.cmd (5#3 ++ a ++ b ++ c)) = .ok (.setack (c.getLsbD 0)) ∧
    decode (.cmd (6#3 ++ a ++ b ++ c)) = .ok .rsv6 ∧
    decode (.cmd (7#3 ++ a ++ b ++ c)) = .ok .rsv7

/-- 30_encoding.md R70: an 80-bit value is a frame exactly when its bytes 0, 1, 2, 9 are `7E FF 06 EF`; its other six
bytes are the operands, byte 0 in bits 79 to 72; and encoding it gives the value back, so no bit is dropped. That the
checksum is not looked at is the model's choice (log entry 8). -/
def Obligations.WireFrameDecodesByFixedBytes : Prop :=
  ∀ f : Wire,
    (f.extractLsb' 72 8 = 0x7E#8 ∧ f.extractLsb' 64 8 = 0xFF#8 ∧ f.extractLsb' 56 8 = 0x06#8 ∧
        f.extractLsb' 0 8 = 0xEF#8 →
      ∃ i, decode (.wire f) = .ok i ∧ encode i = .wire f ∧
        i = .frame (f.extractLsb' 48 8) (f.extractLsb' 40 8) (f.extractLsb' 32 8)
          (f.extractLsb' 24 8) (f.extractLsb' 16 8) (f.extractLsb' 8 8)) ∧
    (¬ (f.extractLsb' 72 8 = 0x7E#8 ∧ f.extractLsb' 64 8 = 0xFF#8 ∧ f.extractLsb' 56 8 = 0x06#8 ∧
        f.extractLsb' 0 8 = 0xEF#8) →
      decode (.wire f) = .error .notAFrame)

/-- Words written out from 95_test_vectors.md and opcode_table.json decode to their instructions. That a command word
stands in the low bits of 32 and that the byte `7E` alone is read at position 0 is the model's choice (log entry 9),
and so are the instructions of the reserved codes 6 and 7 (log entry 19). -/
def Obligations.WrittenOutWordsDecode : Prop :=
  decodeTableWord 32 0x0000000 = some .nop ∧
  decodeTableWord 32 0x1030005 = some (.fill 0x03#8 0x00#8 0x05#8) ∧
  decodeTableWord 32 0x2FFFFFF = some .emit ∧
  decodeTableWord 32 0x3ABCD7E = some (.feed 0x7E#8) ∧
  decodeTableWord 32 0x4123456 = some .rxreset ∧
  decodeTableWord 32 0x5FFFFFE = some (.setack false) ∧
  decodeTableWord 32 0x6000000 = some .rsv6 ∧
  decodeTableWord 32 0x7ABCDEF = some .rsv7 ∧
  decodeTableWord 80 0x7EFF0603010005FEF2EF =
    some (.frame 0x03#8 0x01#8 0x00#8 0x05#8 0xFE#8 0xF2#8) ∧
  decodeTableWord 80 0x7FFF0603010005FEF2EF = none ∧
  decodeTableWord 8 0x7E = some (.rxpos0 0x7E#8)

/-! ## The checksum -/

/-- 30_encoding.md R78 (which the spec derives from R76): the range of the sum and of the checksum, on receive and on
transmit; the modular sum is the integer sum; sum and checksum together wrap exactly once. -/
def Obligations.ChecksumRanges : Prop :=
  ∀ op ack hi lo : Byte,
    (frameSum op ack hi lo).toNat = 0x0105 + op.toNat + ack.toNat + hi.toNat + lo.toNat ∧
    (frameSum op ack hi lo).toNat ≤ 0x0501 ∧
    (frameSum op ack hi lo).toNat + (checksum op ack hi lo).toNat = 0x10000 ∧
    0xFAFF ≤ (checksum op ack hi lo).toNat ∧ (checksum op ack hi lo).toNat ≤ 0xFEFB ∧
    (checksum op ack hi lo).extractLsb' 8 8 ≠ 0x00#8 ∧
    (ack.toNat ≤ 1 →
      (frameSum op ack hi lo).toNat ≤ 0x0403 ∧ 0xFBFD ≤ (checksum op ack hi lo).toNat ∧
      ((checksum op ack hi lo).extractLsb' 8 8 = 0xFB#8 ∨ (checksum op ack hi lo).extractLsb' 8 8 = 0xFC#8 ∨
       (checksum op ack hi lo).extractLsb' 8 8 = 0xFD#8 ∨ (checksum op ack hi lo).extractLsb' 8 8 = 0xFE#8))

/-- 20_memory.md R51, R53: both 16-bit quantities are big-endian, on receive and on transmit: the checksum received at
positions 7 and 8, the parameter received at 5 and 6, the two that `FILL16` makes. With them the outputs that show the
bytes: the status outputs (10_state.md R38) and, after an `EMIT`, `tx_valid_o` and `tx_frame` with byte 0 in bits 79 to
72 (10_state.md R37). -/
def Obligations.BigEndianHalves : Prop :=
  (∀ (hi lo : Byte) (s : State), s.rx.idx = 7#4 →
    ∃ t, runOps [.feed hi, .feed lo] s = .next t ∧ t.rx.acc = s.rx.acc + (hi ++ lo : BitVec 16) ∧
      t.rx.ckok = decide (s.rx.acc + (hi ++ lo : BitVec 16) = 0#16)) ∧
  (∀ (hi lo : Byte) (s : State), s.rx.idx = 5#4 →
    ∃ t, runOps [.feed hi, .feed lo] s = .next t ∧ (status t).rxParam = (hi ++ lo : BitVec 16)) ∧
  (∀ (p : Half) (op : Byte) (s : State), ∃ t, exec (fill16 op p) s = .next t ∧
    t.tx.buf[5] = p.extractLsb' 8 8 ∧ t.tx.buf[6] = p.extractLsb' 0 8 ∧
    (t.tx.buf[5] ++ t.tx.buf[6] : BitVec 16) = p ∧
    (t.tx.buf[7] ++ t.tx.buf[8] : BitVec 16) = checksum op t.tx.buf[4] t.tx.buf[5] t.tx.buf[6]) ∧
  (∀ s : State, status s =
    { rxComplete := decide (s.rx.idx = 10#4), rxCkok := s.rx.ckok, rxOpcode := s.rx.rxop, rxAck := s.rx.rxack
      rxParam := s.rx.rxph ++ s.rx.rxpl, nBytes := s.rx.nbytes, nPkts := s.rx.npkts, nErrs := s.rx.nerrs
      txValid := s.tx.txvalid, ackReq := s.tx.ackreq }) ∧
  (∀ s : State, s.tx.txvalid = true →
    ∃ t f, exec .emit s = .next t ∧ txValidOut t = true ∧ txFrameOut t = some f ∧
      ∀ k : Fin 10, f.extractLsb' (72 - 8 * k.val) 8 = s.tx.buf[k]) ∧
  (∀ (i : Instr) (s t : State), ¬ (i = .emit ∧ s.tx.txvalid = true) → exec i s = .next t → txValidOut t = false)

/-! ## Transmit -/

/-- 40_tx_framer.md R100 (decisions D5, D6 for `ACKREQ`, `TXVALID`): what `FILL` writes, as registers and as the ten
bytes of `TXBUF`, and that it writes nothing else. -/
def Obligations.FillResult : Prop :=
  ∀ (op hi lo : Byte) (s : State),
    let ack8 : Byte := if s.tx.ackreq then 0x01#8 else 0x00#8
    let sum : Half := 0x0105#16 + op.setWidth 16 + ack8.setWidth 16 + hi.setWidth 16 + lo.setWidth 16
    let ck : Half := 0#16 - sum
    let tx' : TxRegs :=
      { op := op, ack := ack8, hi := hi, lo := lo, ckh := ck.extractLsb' 8 8, ckl := ck.extractLsb' 0 8
        txvalid := true, ackreq := s.tx.ackreq }
    exec (.fill op hi lo) s = .next { s with tx := tx', trace := s.trace ++ [⟨false, false, none⟩] } ∧
    tx'.buf = #v[0x7E#8, 0xFF#8, 0x06#8, op, ack8, hi, lo, ck.extractLsb' 8 8, ck.extractLsb' 0 8, 0xEF#8]

/-- 40_tx_framer.md R105 (derived in the spec): after a `FILL` the buffer is a complete well-formed frame with the
operands and the ack byte of `ACKREQ`; every other operation leaves buffer and `TXVALID` alone. -/
def Obligations.FilledFrameStaysUntilNextFill : Prop :=
  (∀ (op hi lo : Byte) (s t : State), exec (.fill op hi lo) s = .next t →
    completeFrame t.tx.buf = true ∧ t.tx.buf[3] = op ∧ t.tx.buf[4] = (if s.tx.ackreq then 0x01#8 else 0x00#8) ∧
    t.tx.buf[5] = hi ∧ t.tx.buf[6] = lo) ∧
  (∀ (i : Instr) (s t : State), (∀ op hi lo, i ≠ .fill op hi lo) → exec i s = .next t →
    t.tx.buf = s.tx.buf ∧ t.tx.txvalid = s.tx.txvalid)

/-- 40_tx_framer.md R107 (derived in the spec): the emitted frame in closed form, over the integers. -/
def Obligations.EmittedFrameClosedForm : Prop :=
  ∀ (op hi lo : Byte) (k : Bool) (s : State),
    let ck : Nat := (0x10000 - (0x0105 + op.toNat + k.toNat + hi.toNat + lo.toNat)) % 0x10000
    ∃ t f, runOps [.setack k, .fill op hi lo, .emit] s = .next t ∧ lastResponse t = ⟨false, false, some f⟩ ∧
      f.toList = [0x7E#8, 0xFF#8, 0x06#8, op, BitVec.ofNat 8 k.toNat, hi, lo,
        BitVec.ofNat 8 (ck / 256), BitVec.ofNat 8 (ck % 256), 0xEF#8]

/-- 40_tx_framer.md R102 (decision D5): `SETACK` writes `ACKREQ` and nothing else. -/
def Obligations.SetackResult : Prop :=
  ∀ (v : Bool) (s : State),
    exec (.setack v) s =
      .next { s with tx := { s.tx with ackreq := v }, trace := s.trace ++ [⟨false, false, none⟩] }

/-- 40_tx_framer.md R103 (decisions D4, D6): a performed `EMIT` gives the ten bytes of `TXBUF` in order and changes no
register; while `TXVALID` is 0 it is refused. -/
def Obligations.EmitResult : Prop :=
  ∀ s : State,
    (s.tx.txvalid = true →
      exec .emit s = .next { s with trace := s.trace ++ [⟨false, false, some #v[0x7E#8, 0xFF#8, 0x06#8,
        s.tx.op, s.tx.ack, s.tx.hi, s.tx.lo, s.tx.ckh, s.tx.ckl, 0xEF#8]⟩] }) ∧
    (s.tx.txvalid = false →
      exec .emit s = .next { s with trace := s.trace ++ [⟨false, true, none⟩] })

/-- 20_memory.md R56: a performed `EMIT` appends exactly the ten bytes of `TXBUF` to the TX stream, and no other
operation writes the TX stream. -/
def Obligations.OnlyEmitWritesTxStream : Prop :=
  ∀ (i : Instr) (s t : State), exec i s = .next t →
    (i = .emit ∧ s.tx.txvalid = true → txStream t = txStream s ++ s.tx.buf.toList) ∧
    (¬ (i = .emit ∧ s.tx.txvalid = true) → txStream t = txStream s)

/-- 20_memory.md R60 and 70_reset_and_hazards.md R228 (derived in the spec): an `EMIT` emits the most recent `FILL`'s
frame, whatever stands between the two, `SETACK`s among it. -/
def Obligations.EmitSendsMostRecentFill : Prop :=
  ∀ (op hi lo : Byte) (between : List Instr) (s : State),
    (∀ i ∈ between, ∀ o h l, i ≠ .fill o h l) →
    ∃ t, runOps (.fill op hi lo :: between ++ [.emit]) s = .next t ∧
      lastResponse t = ⟨false, false, some (encodedFrame op (if s.tx.ackreq then 0x01#8 else 0x00#8) hi lo)⟩

/-- 40_tx_framer.md R101, R104: `FILL16` splits the parameter high byte first; `SEND`, and its two-byte overload,
always emit, and leave the receive side alone. -/
def Obligations.SendAlwaysEmits : Prop :=
  ∀ (op : Byte) (s : State),
    (∀ p : Half, fill16 op p = .fill op (p.extractLsb' 8 8) (p.extractLsb' 0 8)) ∧
    (∀ p : Half, sendOps op p = [fill16 op p, .emit]) ∧
    (∀ hi lo : Byte, ∃ t, runOps [.fill op hi lo, .emit] s = .next t ∧
      txStream t = txStream s ++
        (encodedFrame op (if s.tx.ackreq then 0x01#8 else 0x00#8) hi lo).toList ∧ t.rx = s.rx)

/-! ## Receive: the position rules -/

/-- 41_rx_state_machine.md R137 (which the spec derives from R120 to R136): the whole next-state function of a `FEED`,
row by row, with everything it leaves unchanged. -/
def Obligations.FeedTransitionTable : Prop :=
  ∀ (b : Byte) (s : State),
    let r := s.rx
    let n := r.nbytes + 1
    let goes (x : RxRegs) : Host.Outcome State Fault Refusal :=
      .next { s with rx := x, trace := s.trace ++ [⟨false, false, none⟩] }
    let err (k : BitVec 4) : RxRegs := { r with idx := k, acc := 0x0105#16, nbytes := n, nerrs := r.nerrs + 1 }
    (r.idx = 0#4 → b = 0x7E#8 → exec (.feed b) s = goes { r with idx := 1#4, nbytes := n }) ∧
    (r.idx = 0#4 → b ≠ 0x7E#8 → exec (.feed b) s = goes (err 0#4)) ∧
    (r.idx = 1#4 → b = 0xFF#8 → exec (.feed b) s = goes { r with idx := 2#4, nbytes := n }) ∧
    (r.idx = 1#4 → b = 0x7E#8 → exec (.feed b) s = goes (err 1#4)) ∧
    (r.idx = 1#4 → b ≠ 0xFF#8 → b ≠ 0x7E#8 → exec (.feed b) s = goes (err 0#4)) ∧
    (r.idx = 2#4 → b = 0x06#8 → exec (.feed b) s = goes { r with idx := 3#4, nbytes := n }) ∧
    (r.idx = 2#4 → b = 0x7E#8 → exec (.feed b) s = goes (err 1#4)) ∧
    (r.idx = 2#4 → b ≠ 0x06#8 → b ≠ 0x7E#8 → exec (.feed b) s = goes (err 0#4)) ∧
    (r.idx = 3#4 → exec (.feed b) s =
      goes { r with idx := 4#4, acc := r.acc + b.setWidth 16, rxop := b, nbytes := n }) ∧
    (r.idx = 4#4 → exec (.feed b) s =
      goes { r with idx := 5#4, acc := r.acc + b.setWidth 16, rxack := b, nbytes := n }) ∧
    (r.idx = 5#4 → exec (.feed b) s =
      goes { r with idx := 6#4, acc := r.acc + b.setWidth 16, rxph := b, nbytes := n }) ∧
    (r.idx = 6#4 → exec (.feed b) s =
      goes { r with idx := 7#4, acc := r.acc + b.setWidth 16, rxpl := b, nbytes := n }) ∧
    (r.idx = 7#4 → exec (.feed b) s =
      goes { r with idx := 8#4, acc := r.acc + b.setWidth 16 * 256#16, nbytes := n }) ∧
    (r.idx = 8#4 → exec (.feed b) s =
      goes { r with idx := 9#4, acc := r.acc + b.setWidth 16, ckok := decide (r.acc + b.setWidth 16 = 0#16), nbytes := n }) ∧
    (r.idx = 9#4 → b = 0xEF#8 → exec (.feed b) s =
      .next { s with rx := { r with idx := 10#4, nbytes := n, npkts := r.npkts + 1 }
                     trace := s.trace ++ [⟨true, false, none⟩] }) ∧
    (r.idx = 9#4 → b ≠ 0xEF#8 → exec (.feed b) s = goes (err 0#4)) ∧
    (10#4 ≤ r.idx → exec (.feed b) s = goes { r with idx := 0#4, acc := 0x0105#16, nbytes := n })

/-- 41_rx_state_machine.md R122, R123, R124: the three verify positions. -/
def Obligations.VerifyPositionRows : Prop :=
  ∀ (b : Byte) (s : State),
    let r := s.rx
    let goes (x : RxRegs) : Host.Outcome State Fault Refusal :=
      .next { s with rx := { x with nbytes := r.nbytes + 1 }, trace := s.trace ++ [⟨false, false, none⟩] }
    let err (k : BitVec 4) : RxRegs := { r with idx := k, acc := 0x0105#16, nerrs := r.nerrs + 1 }
    (r.idx = 0#4 → exec (.rxpos0 b) s = goes (if b = 0x7E#8 then { r with idx := 1#4 } else err 0#4)) ∧
    (r.idx = 1#4 → exec (.rxpos1 b) s =
      goes (if b = 0xFF#8 then { r with idx := 2#4 } else if b = 0x7E#8 then err 1#4 else err 0#4)) ∧
    (r.idx = 2#4 → exec (.rxpos2 b) s =
      goes (if b = 0x06#8 then { r with idx := 3#4 } else if b = 0x7E#8 then err 1#4 else err 0#4))

/-- 41_rx_state_machine.md R126 to R129: the four accept positions store the byte, add it unshifted and advance,
whatever the byte is. -/
def Obligations.AcceptPositionRows : Prop :=
  ∀ (b : Byte) (s : State),
    let r := s.rx
    let goes (x : RxRegs) : Host.Outcome State Fault Refusal :=
      .next { s with rx := { x with acc := r.acc + b.setWidth 16, nbytes := r.nbytes + 1 }
                     trace := s.trace ++ [⟨false, false, none⟩] }
    (r.idx = 3#4 → exec (.rxpos3 b) s = goes { r with rxop := b, idx := 4#4 }) ∧
    (r.idx = 4#4 → exec (.rxpos4 b) s = goes { r with rxack := b, idx := 5#4 }) ∧
    (r.idx = 5#4 → exec (.rxpos5 b) s = goes { r with rxph := b, idx := 6#4 }) ∧
    (r.idx = 6#4 → exec (.rxpos6 b) s = goes { r with rxpl := b, idx := 7#4 })

/-- 41_rx_state_machine.md R130, R131: the two checksum positions; `CKOK` is the zero test of the new accumulator, on
all 16 bits. -/
def Obligations.ChecksumPositionRows : Prop :=
  ∀ (b : Byte) (s : State),
    let r := s.rx
    let goes (x : RxRegs) : Host.Outcome State Fault Refusal :=
      .next { s with rx := { x with nbytes := r.nbytes + 1 }, trace := s.trace ++ [⟨false, false, none⟩] }
    (r.idx = 7#4 → exec (.rxpos7 b) s = goes { r with acc := r.acc + (b.setWidth 16 <<< 8), idx := 8#4 }) ∧
    (r.idx = 8#4 → exec (.rxpos8 b) s =
      goes { r with acc := r.acc + b.setWidth 16, ckok := decide (r.acc + b.setWidth 16 = 0#16), idx := 9#4 })

/-- 41_rx_state_machine.md R132 (decisions D8, D10): the terminator completes the frame whatever `CKOK` is; any other
byte, a start marker too, is a framing error that sends the cursor to 0. -/
def Obligations.TerminatorPositionRow : Prop :=
  ∀ (b : Byte) (s : State), s.rx.idx = 9#4 →
    exec (.rxpos9 b) s =
      if b = 0xEF#8 then
        .next { s with rx := { s.rx with idx := 10#4, nbytes := s.rx.nbytes + 1, npkts := s.rx.npkts + 1 }
                       trace := s.trace ++ [⟨true, false, none⟩] }
      else
        .next { s with rx := { s.rx with idx := 0#4, acc := 0x0105#16, nbytes := s.rx.nbytes + 1
                                         nerrs := s.rx.nerrs + 1 }
                       trace := s.trace ++ [⟨false, false, none⟩] }

/-- 41_rx_state_machine.md R133 and 60_exceptions.md R194 (decision D9): at `IDX >= 10` the cursor is reset and the
byte is discarded unexamined, a start marker too. -/
def Obligations.DefensiveResetRow : Prop :=
  ∀ (b : Byte) (s : State), 10#4 ≤ s.rx.idx →
    exec (.rxpos10 b) s =
      .next { s with rx := { s.rx with idx := 0#4, acc := 0x0105#16, nbytes := s.rx.nbytes + 1 }
                     trace := s.trace ++ [⟨false, false, none⟩] }

/-- The receive rows are `FEED` seen at a position: a row and a `FEED` of the same byte do the same in every state.
At an `IDX` other than the row's own this is the model's choice (log entry 6); exactly one arm runs per `FEED`
(41_rx_state_machine.md R120). -/
def Obligations.ReceiveRowsActAsFeed : Prop :=
  ∀ (b : Byte) (s : State),
    ∀ row ∈ [Instr.rxpos0 b, .rxpos1 b, .rxpos2 b, .rxpos3 b, .rxpos4 b, .rxpos5 b, .rxpos6 b, .rxpos7 b,
      .rxpos8 b, .rxpos9 b, .rxpos10 b], exec row s = exec (.feed b) s

/-- 41_rx_state_machine.md R121, R136 (decisions D14, D16) and 60_exceptions.md R202: `RXRESET` writes `IDX` and `ACC`
and nothing else, at any `IDX`. -/
def Obligations.RxresetResult : Prop :=
  ∀ s : State,
    exec .rxreset s =
      .next { s with rx := { s.rx with idx := 0#4, acc := 0x0105#16 }, trace := s.trace ++ [⟨false, false, none⟩] }

/-- 10_state.md R22, R26 (decision D14): each field register is written by a `FEED` at its own position only, `CKOK`
by a `FEED` at position 8 only, and none of them by an operation that feeds no byte. -/
def Obligations.FieldRegistersWrittenAtTheirPositions : Prop :=
  (∀ (b : Byte) (s t : State), exec (.feed b) s = .next t →
    t.rx.rxop = (if s.rx.idx = 3#4 then b else s.rx.rxop) ∧
    t.rx.rxack = (if s.rx.idx = 4#4 then b else s.rx.rxack) ∧
    t.rx.rxph = (if s.rx.idx = 5#4 then b else s.rx.rxph) ∧
    t.rx.rxpl = (if s.rx.idx = 6#4 then b else s.rx.rxpl) ∧
    t.rx.ckok = (if s.rx.idx = 8#4 then decide (s.rx.acc + b.setWidth 16 = 0#16) else s.rx.ckok)) ∧
  (∀ (i : Instr) (s t : State), fedBytes i = [] → exec i s = .next t →
    t.rx.rxop = s.rx.rxop ∧ t.rx.rxack = s.rx.rxack ∧ t.rx.rxph = s.rx.rxph ∧ t.rx.rxpl = s.rx.rxpl ∧
    t.rx.ckok = s.rx.ckok)

/-- 10_state.md R29, R30, R31 (decisions D9, D11, D12, D13): when each counter moves, that no operation which feeds no
byte moves one, and that the hardware reset clears all three. -/
def Obligations.CountersMoveByTheirRules : Prop :=
  (∀ (b : Byte) (s t : State), exec (.feed b) s = .next t →
    t.rx.nbytes = s.rx.nbytes + 1 ∧
    t.rx.npkts = (if s.rx.idx = 9#4 ∧ b = 0xEF#8 then s.rx.npkts + 1 else s.rx.npkts) ∧
    t.rx.nerrs =
      (if (s.rx.idx = 0#4 ∧ b ≠ 0x7E#8) ∨ (s.rx.idx = 1#4 ∧ b ≠ 0xFF#8) ∨ (s.rx.idx = 2#4 ∧ b ≠ 0x06#8) ∨
          (s.rx.idx = 9#4 ∧ b ≠ 0xEF#8)
       then s.rx.nerrs + 1 else s.rx.nerrs)) ∧
  (∀ (i : Instr) (s t : State), fedBytes i = [] → exec i s = .next t →
    t.rx.nbytes = s.rx.nbytes ∧ t.rx.npkts = s.rx.npkts ∧ t.rx.nerrs = s.rx.nerrs) ∧
  (∀ (v : Bool) (w : Cmd) (rest : List Input) (s t : State), s.pins = .edge true v w :: rest → step s = .next t →
    t.rx.nbytes = 0 ∧ t.rx.npkts = 0 ∧ t.rx.nerrs = 0)

/-- 60_exceptions.md R210 (decision D11): a counter at `2^CW - 1` goes to 0 on its next increment, and nothing else
is affected: `NBYTES` at every `FEED`, `NPKTS` at a completion, `NERRS` at a framing error at any of the positions 0, 1,
2 and 9. That `CW` is 32 is the model's choice of the parameter (log entry 2). -/
def Obligations.CountersWrapSilently : Prop :=
  (∀ (b : Byte) (c : Counter) (s t u : State), s.rx.nbytes = 0xFFFFFFFF#32 →
    exec (.feed b) s = .next t → exec (.feed b) { s with rx := { s.rx with nbytes := c } } = .next u →
    t = { u with rx := { u.rx with nbytes := 0 } }) ∧
  (∀ s : State, s.rx.npkts = 0xFFFFFFFF#32 → s.rx.idx = 9#4 →
    exec (.feed 0xEF#8) s =
      .next { s with rx := { s.rx with idx := 10#4, nbytes := s.rx.nbytes + 1, npkts := 0 }
                     trace := s.trace ++ [⟨true, false, none⟩] }) ∧
  (∀ (b : Byte) (s : State) (e : Event), s.rx.nerrs = 0xFFFFFFFF#32 → byteEvent b s.rx = some e → e.isFraming = true →
    exec (.feed b) s =
      .next { s with
        rx := { s.rx with
          idx := if b = 0x7E#8 ∧ (s.rx.idx = 1#4 ∨ s.rx.idx = 2#4) then 1#4 else 0#4
          acc := 0x0105#16
          nbytes := s.rx.nbytes + 1
          nerrs := 0 }
        trace := s.trace ++ [⟨false, false, none⟩] })

/-- 10_state.md R24 (in part): a `FEED` at a position of the sequence advances `IDX` by exactly 1 or raises a framing
error that returns it to 0 or 1; from 9 it goes to 10 or 0, and from 10 and above only to 0; operations that are
neither a `FEED` nor an `RXRESET` leave it. -/
def Obligations.IdxNeverWraps : Prop :=
  (∀ (b : Byte) (s t : State), exec (.feed b) s = .next t →
    (10#4 ≤ s.rx.idx → t.rx.idx = 0#4) ∧
    (s.rx.idx ≤ 9#4 →
      (t.rx.idx.toNat = s.rx.idx.toNat + 1 ∧ t.rx.nerrs = s.rx.nerrs) ∨
      (t.rx.nerrs = s.rx.nerrs + 1 ∧ (t.rx.idx = 0#4 ∨ (t.rx.idx = 1#4 ∧ s.rx.idx ≠ 9#4))))) ∧
  (∀ (i : Instr) (s t : State), fedBytes i = [] → i ≠ .rxreset → exec i s = .next t → t.rx.idx = s.rx.idx)

/-! ## Receive: errors and events -/

/-- 60_exceptions.md R191: a framing error counts one error, resets the cursor (to 1 when the byte is the start marker
and the position is 1 or 2), and changes nothing else but `NBYTES`; the operation completes with `done = 0`,
`err = 0`. -/
def Obligations.FramingErrorEffect : Prop :=
  ∀ (b : Byte) (s : State) (e : Event), byteEvent b s.rx = some e → e.isFraming = true →
    exec (.feed b) s =
      .next { s with
        rx := { s.rx with
          idx := if b = 0x7E#8 ∧ (s.rx.idx = 1#4 ∨ s.rx.idx = 2#4) then 1#4 else 0#4
          acc := 0x0105#16
          nbytes := s.rx.nbytes + 1
          nerrs := s.rx.nerrs + 1 }
        trace := s.trace ++ [⟨false, false, none⟩] }

/-- 60_exceptions.md R190 (decision D20): which event a received byte raises. -/
def Obligations.ByteEventsByPosition : Prop :=
  ∀ (b : Byte) (r : RxRegs),
    (byteEvent b r = some .fe0 ↔ r.idx = 0#4 ∧ b ≠ 0x7E#8) ∧
    (byteEvent b r = some .fe1 ↔ r.idx = 1#4 ∧ b ≠ 0xFF#8) ∧
    (byteEvent b r = some .fe2 ↔ r.idx = 2#4 ∧ b ≠ 0x06#8) ∧
    (byteEvent b r = some .fe9 ↔ r.idx = 9#4 ∧ b ≠ 0xEF#8) ∧
    (byteEvent b r = some .ckm ↔ r.idx = 8#4 ∧ r.acc + b.setWidth 16 ≠ 0#16) ∧
    (byteEvent b r = some .defensive ↔ 10#4 ≤ r.idx)

/-- `NERRS` moves by the number of framing-error events of an operation, for every operation (10_state.md R31,
60_exceptions.md R190). -/
def Obligations.ErrorCountFollowsEvents : Prop :=
  ∀ (i : Instr) (s t : State), exec i s = .next t →
    t.rx.nerrs = s.rx.nerrs + BitVec.ofNat 32 ((events i s).countP Event.isFraming)

/-- 60_exceptions.md R193: the checksum test only writes `CKOK`; whatever its outcome the frame goes on to the
terminator and completes, counted in `NPKTS`, with no error counted. -/
def Obligations.ChecksumMismatchIsAFlag : Prop :=
  ∀ (b : Byte) (s : State), s.rx.idx = 8#4 →
    ∃ t, runOps (feeds [b, 0xEF#8]) s = .next t ∧
      t.trace = s.trace ++ [⟨false, false, none⟩, ⟨true, false, none⟩] ∧
      t.rx.ckok = decide (s.rx.acc + b.setWidth 16 = 0#16) ∧ t.rx.idx = 10#4 ∧ t.rx.npkts = s.rx.npkts + 1 ∧
      t.rx.nerrs = s.rx.nerrs

/-- 70_reset_and_hazards.md R225, 60_exceptions.md R194: a byte is lost exactly when the host breaks its rule. An
operation that feeds one byte only resets the cursor, so that the byte neither advances it nor counts as an error,
exactly when the host feeds it while a completed frame is held. A run in which every operation keeps the rule never
takes the defensive reset; nor does one, from `IDX` at most 9, of a host that goes by the responses alone and feeds
nothing between a `done` and the next `RXRESET`. -/
def Obligations.DefensiveResetOnlyByRuleBreak : Prop :=
  (∀ (i : Instr) (b : Byte) (s t : State), fedBytes i = [b] → exec i s = .next t →
    (obeysReset i s = false ↔ t.rx = { s.rx with idx := 0#4, acc := 0x0105#16, nbytes := s.rx.nbytes + 1 })) ∧
  (∀ (ops : List Instr) (s : State), obeysRun ops s = true → Event.defensive ∉ runEvents ops s) ∧
  (∀ (ops : List Instr) (s : State), s.rx.idx ≤ 9#4 → releasesRun false ops s = true →
    Event.defensive ∉ runEvents ops s)

/-! ## Receive: runs of bytes -/

/-- `FRAME` is its ten bytes fed in order (log entry 7; 30_encoding.md R70, R90). -/
def Obligations.FrameIsTenFeeds : Prop :=
  ∀ (op ack hi lo ckh ckl : Byte) (s : State),
    exec (.frame op ack hi lo ckh ckl) s =
      runOps [.feed 0x7E#8, .feed 0xFF#8, .feed 0x06#8, .feed op, .feed ack, .feed hi, .feed lo, .feed ckh, .feed ckl,
        .feed 0xEF#8] s

/-- A frame received at `IDX = 0` completes: the fields are its bytes, `ACC` the sum of 41_rx_state_machine.md R139,
`CKOK` its zero test, and nothing else changes but the two counts. That `FRAME`, executed, receives its ten bytes in
order is the model's choice (log entry 7); at another `IDX` it does what `FrameIsTenFeeds` says. -/
def Obligations.FrameReceivedWhole : Prop :=
  ∀ (op ack hi lo ckh ckl : Byte) (s : State), s.rx.idx = 0#4 → s.rx.acc = 0x0105#16 →
    let sum : Half := 0x0105#16 + op.setWidth 16 + ack.setWidth 16 + hi.setWidth 16 + lo.setWidth 16
      + (ckh.setWidth 16 <<< 8) + ckl.setWidth 16
    exec (.frame op ack hi lo ckh ckl) s =
      .next { s with
        rx := { s.rx with
          idx := 10#4
          acc := sum
          rxop := op
          rxack := ack
          rxph := hi
          rxpl := lo
          ckok := decide (sum = 0#16)
          nbytes := s.rx.nbytes + 10
          npkts := s.rx.npkts + 1 }
        trace := s.trace ++ List.replicate 9 ⟨false, false, none⟩ ++ [⟨true, false, none⟩] }

/-- 41_rx_state_machine.md R140 (derived in the spec): round trip. From a hunting position the ten bytes of a `FILL`
complete a valid frame with the operands back, at the cost of no framing error from `IDX = 0` and of one from 1 or 2;
from each `IDX` in 3 to 10 there is a state and a frame for which it fails. -/
def Obligations.EncodeReceiveRoundTrip : Prop :=
  (∀ (op hi lo : Byte) (s : State), s.rx.idx ≤ 2#4 → s.rx.acc = 0x0105#16 →
    ∃ u t, exec (.fill op hi lo) s = .next u ∧ runOps (feeds u.tx.buf.toList) u = .next t ∧
      t.trace = u.trace ++ List.replicate 9 ⟨false, false, none⟩ ++ [⟨true, false, none⟩] ∧
      t.rx.idx = 10#4 ∧ t.rx.ckok = true ∧ t.rx.rxop = op ∧ t.rx.rxph = hi ∧ t.rx.rxpl = lo ∧
      t.rx.rxack = (if s.tx.ackreq then 0x01#8 else 0x00#8) ∧
      t.rx.nerrs = (if s.rx.idx = 0#4 then s.rx.nerrs else s.rx.nerrs + 1)) ∧
  (∀ n : BitVec 4, 3#4 ≤ n → n ≤ 10#4 →
    ∃ (op hi lo : Byte) (s u t : State), Inv s ∧ s.rx.idx = n ∧ exec (.fill op hi lo) s = .next u ∧
      runOps (feeds u.tx.buf.toList) u = .next t ∧ (lastResponse t).done = false)

/-- 41_rx_state_machine.md R141 (derived in the spec): a complete well-formed frame with exactly one byte changed, fed
from `IDX = 0`. At position 0, 1, 2 or 9 at least one framing error is counted and nothing completes; at position 3 to
8 the tenth byte completes the frame with `CKOK = 0`. -/
def Obligations.SingleByteCorruptionDetected : Prop :=
  ∀ (f : Frame) (i : Fin 10) (b : Byte) (s : State),
    completeFrame f = true → b ≠ f[i] → s.rx.idx = 0#4 → s.rx.acc = 0x0105#16 →
    ∃ t rs, runOps (feeds (f.set i b).toList) s = .next t ∧ t.trace = s.trace ++ rs ∧
      ((i.val ≤ 2 ∨ i.val = 9) → t.rx.nerrs ≠ s.rx.nerrs ∧ ∀ r ∈ rs, r.done = false) ∧
      ((3 ≤ i.val ∧ i.val ≤ 8) →
        rs = List.replicate 9 ⟨false, false, none⟩ ++ [⟨true, false, none⟩] ∧ t.rx.ckok = false)

/-- 41_rx_state_machine.md R142 (derived in the spec): three preamble bytes, at least seven garbage bytes of which
those after the seventh hold no `7E FF 06`, then a fresh frame. The fresh frame is decoded, both when the seventh
garbage byte fails the terminator and when it is `EF` and the host then issues `RXRESET`. -/
def Obligations.ResyncAfterSevenGarbageBytes : Prop :=
  ∀ (six rest : List Byte) (seventh : Byte) (f : Frame) (s : State),
    six.length = 6 → ¬ [0x7E#8, 0xFF#8, 0x06#8] <:+: rest → completeFrame f = true →
    s.rx.idx = 0#4 → s.rx.acc = 0x0105#16 →
    let before := feeds ([0x7E#8, 0xFF#8, 0x06#8] ++ six ++ [seventh])
    let after := feeds (rest ++ f.toList)
    ∃ t, runOps (before ++ (if seventh = 0xEF#8 then [.rxreset] else []) ++ after) s = .next t ∧
      lastResponse t = ⟨true, false, none⟩ ∧ t.rx.idx = 10#4 ∧ t.rx.ckok = true ∧
      t.rx.rxop = f[3] ∧ t.rx.rxack = f[4] ∧ t.rx.rxph = f[5] ∧ t.rx.rxpl = f[6]

/-- 41_rx_state_machine.md R142, 70_reset_and_hazards.md R229 (derived in the spec): after a preamble, with fewer than
seven bytes before it, a fresh frame is swallowed: its last byte completes nothing. -/
def Obligations.TruncatedFrameSwallowsNext : Prop :=
  ∀ (few : List Byte) (f : Frame) (s : State), few.length ≤ 6 → completeFrame f = true → s.rx.idx = 3#4 →
    ∃ t, runOps (feeds (few ++ f.toList)) s = .next t ∧ (lastResponse t).done = false ∧ t.rx.idx ≠ 10#4

/-- 41_rx_state_machine.md R122, R123 (corner cases), R143: from `IDX = 0`, every byte of noise that is no start marker
costs one error count and changes nothing else but `NBYTES`, and a run of `k` start markers leaves `IDX = 1` and adds
`k - 1` to `NERRS`. -/
def Obligations.NoiseWhileHuntingCountsErrors : Prop :=
  ∀ s : State, s.rx.idx = 0#4 → s.rx.acc = 0x0105#16 →
    (∀ bs : List Byte, (∀ b ∈ bs, b ≠ 0x7E#8) →
      ∃ t, runOps (feeds bs) s = .next t ∧
        t.rx = { s.rx with
          nbytes := s.rx.nbytes + BitVec.ofNat 32 bs.length
          nerrs := s.rx.nerrs + BitVec.ofNat 32 bs.length }) ∧
    (∀ k : Nat, 1 ≤ k →
      ∃ t, runOps (feeds (List.replicate k 0x7E#8)) s = .next t ∧
        t.rx = { s.rx with
          idx := 1#4
          nbytes := s.rx.nbytes + BitVec.ofNat 32 k
          nerrs := s.rx.nerrs + BitVec.ofNat 32 (k - 1) })

/-- 41_rx_state_machine.md R139 (derived in the spec): whatever operations have run since reset, when `IDX = 10` the
last ten bytes fed were a frame between preamble and terminator, and the registers hold what it says; at `IDX` 0 to 3
the accumulator holds the preamble's contribution. -/
def Obligations.CompleteMeansLastTenBytesWereAFrame : Prop :=
  ∀ (ops : List Instr) (t : State), runOps ops State.reset = .next t →
    (t.rx.idx ≤ 3#4 → t.rx.acc = 0x0105#16) ∧
    (t.rx.idx = 10#4 →
      ∃ (earlier : List Byte) (x3 x4 x5 x6 x7 x8 : Byte),
        ops.flatMap fedBytes = earlier ++ [0x7E#8, 0xFF#8, 0x06#8, x3, x4, x5, x6, x7, x8, 0xEF#8] ∧
        t.rx.rxop = x3 ∧ t.rx.rxack = x4 ∧ t.rx.rxph = x5 ∧ t.rx.rxpl = x6 ∧
        t.rx.acc = 0x0105#16 + x3.setWidth 16 + x4.setWidth 16 + x5.setWidth 16 + x6.setWidth 16
          + x7.setWidth 16 * 256#16 + x8.setWidth 16 ∧
        t.rx.ckok = decide (t.rx.acc = 0#16))

/-- 60_exceptions.md R207 (derived in the spec): from reset, with no counter wrap, `NBYTES` is the number of bytes fed,
`NPKTS` the number of `done` responses, `NERRS` the number of framing errors, and `NBYTES >= 10 * NPKTS + NERRS`. The
bound 2^32 is the model's choice of `CW` (log entry 2), and that the list of responses is empty at reset is its form of
the interface (log entry 4). -/
def Obligations.CountersCountWhatTheySay : Prop :=
  ∀ (ops : List Instr) (t : State), (ops.flatMap fedBytes).length < 2 ^ 32 → runOps ops State.reset = .next t →
    t.rx.nbytes.toNat = (ops.flatMap fedBytes).length ∧
    t.rx.npkts.toNat = t.trace.countP Response.done ∧
    t.rx.nerrs.toNat = (runEvents ops State.reset).countP Event.isFraming ∧
    10 * t.rx.npkts.toNat + t.rx.nerrs.toNat ≤ t.rx.nbytes.toNat

/-! ## System operations, refusals, totality -/

/-- 42_system_ops.md R150, R151 (decisions D2, D17): `NOP` changes no register and gives a quiet response, and so does
a cycle with `cmd_valid == 0`; a command word with `opc` 6 or 7 changes no register and is answered with `err = 1`.
That such a word decodes to an instruction, where R151 has a decoder return "invalid", is the model's choice (log entry
19). -/
def Obligations.NopAndReservedResults : Prop :=
  ∀ s : State,
    exec .nop s = .next { s with trace := s.trace ++ [⟨false, false, none⟩] } ∧
    (∀ (w : Cmd) (rest : List Input), s.pins = .edge false false w :: rest →
      step s = .next { s with pins := rest, trace := s.trace ++ [⟨false, false, none⟩] }) ∧
    (∀ (opc : BitVec 3) (a b c : Byte), 6#3 ≤ opc →
      ∃ i, decode (.cmd (opc ++ a ++ b ++ c)) = .ok i ∧
        exec i s = .next { s with trace := s.trace ++ [⟨false, true, none⟩] }) ∧
    exec .rsv6 s = .next { s with trace := s.trace ++ [⟨false, true, none⟩] } ∧
    exec .rsv7 s = .next { s with trace := s.trace ++ [⟨false, true, none⟩] }

/-- 42_system_ops.md R153 (decisions D6, D17): exactly two things are refused, and a refusal changes nothing. -/
def Obligations.ExactlyTwoThingsRefused : Prop :=
  ∀ (i : Instr) (s t : State), exec i s = .next t →
    ((∃ r ∈ t.trace.drop s.trace.length, r.err = true) ↔
      (i = .emit ∧ s.tx.txvalid = false) ∨ i = .rsv6 ∨ i = .rsv7) ∧
    ((i = .emit ∧ s.tx.txvalid = false) ∨ i = .rsv6 ∨ i = .rsv7 →
      t = { s with trace := s.trace ++ [⟨false, true, none⟩] })

/-- 60_exceptions.md R208: every operation has a next state in every state, so has every step, and one `RXRESET` brings
the block from any state to `IDX == 0`. -/
def Obligations.NothingIsFatal : Prop :=
  (∀ (i : Instr) (s : State), ∃ t, exec i s = .next t) ∧
  (∀ s : State, ∃ t, step s = .next t) ∧
  (∀ s t : State, exec .rxreset s = .next t → t.rx.idx = 0#4)

/-- 10_state.md R39: every response an operation gives is quiet, but for a `done` of a byte that matched the
terminator, an `err` of a refusal, a frame of a performed `EMIT`; and no response is two of these. R39 gives one
response to an operation; that `FRAME` gives ten, one per byte, is the model's choice (log entry 7). -/
def Obligations.ResponsesByOperation : Prop :=
  ∀ (i : Instr) (s t : State), exec i s = .next t →
    (∃ rs : List Response, t.trace = s.trace ++ rs ∧ rs.length = max 1 (fedBytes i).length ∧
      ∀ r ∈ rs, r = ⟨false, false, none⟩ ∨ (r = ⟨true, false, none⟩ ∧ fedBytes i ≠ []) ∨
        (r = ⟨false, true, none⟩ ∧ ((i = .emit ∧ s.tx.txvalid = false) ∨ i = .rsv6 ∨ i = .rsv7)) ∨
        (r = ⟨false, false, some s.tx.buf⟩ ∧ i = .emit ∧ s.tx.txvalid = true)) ∧
    (∀ b, fedBytes i = [b] → ((lastResponse t).done = true ↔ s.rx.idx = 9#4 ∧ b = 0xEF#8))

/-! ## Frames and independence -/

/-- What the transmit and system operations leave unchanged: the whole receive side and the pending inputs; `NOP`,
`EMIT` and the reserved codes the transmit side too; `SETACK` all of it but `ACKREQ`; `FILL` `ACKREQ`
(20_memory.md R61, 40_tx_framer.md R100, R102, R103, 42_system_ops.md R150, R151). -/
def Obligations.TransmitOperationsFrame : Prop :=
  ∀ (i : Instr) (s t : State), exec i s = .next t →
    ((i = .nop ∨ i = .emit ∨ i = .rsv6 ∨ i = .rsv7) → t.rx = s.rx ∧ t.tx = s.tx ∧ t.pins = s.pins) ∧
    (∀ v, i = .setack v → t.rx = s.rx ∧ t.tx.buf = s.tx.buf ∧ t.tx.txvalid = s.tx.txvalid ∧ t.pins = s.pins) ∧
    (∀ op hi lo, i = .fill op hi lo → t.rx = s.rx ∧ t.tx.ackreq = s.tx.ackreq ∧ t.pins = s.pins)

/-- What the receive operations leave unchanged: the whole transmit side and the pending inputs; `RXRESET` the field
registers, `CKOK` and the counters too (20_memory.md R61, 41_rx_state_machine.md R136). -/
def Obligations.ReceiveOperationsFrame : Prop :=
  ∀ (i : Instr) (s t : State), exec i s = .next t → (i = .rxreset ∨ fedBytes i ≠ []) →
    t.tx = s.tx ∧ t.pins = s.pins ∧
    (i = .rxreset → t.rx.rxop = s.rx.rxop ∧ t.rx.rxack = s.rx.rxack ∧ t.rx.rxph = s.rx.rxph ∧
      t.rx.rxpl = s.rx.rxpl ∧ t.rx.ckok = s.rx.ckok ∧ t.rx.nbytes = s.rx.nbytes ∧ t.rx.npkts = s.rx.npkts ∧
      t.rx.nerrs = s.rx.nerrs)

/-- 20_memory.md R61, 10_state.md R36 (f) (derived in the spec): the two sides are independent. What an operation makes
of the receive registers depends on the receive registers alone, of the transmit registers on the transmit registers
alone, and no operation changes both. -/
def Obligations.SidesAreIndependent : Prop :=
  ∀ (i : Instr) (s₁ s₂ t₁ t₂ : State), exec i s₁ = .next t₁ → exec i s₂ = .next t₂ →
    (s₁.rx = s₂.rx → t₁.rx = t₂.rx) ∧ (s₁.tx = s₂.tx → t₁.tx = t₂.tx) ∧ (t₁.tx = s₁.tx ∨ t₁.rx = s₁.rx)

/-- 10_state.md R27, R35, 93_implementation_defined.md U3: what stands in `TXBUF[3..8]` before the first `FILL` cannot
be observed. Two states that agree but for those bytes, `TXVALID` being 0 in both, give the same responses and the
same status outputs through every run. So the reset value of those bytes (log entry 1) matters to no run. -/
def Obligations.UnfilledBufferIsUnobservable : Prop :=
  ∀ (ops : List Instr) (s₁ s₂ t₁ t₂ : State),
    s₁.rx = s₂.rx → s₁.trace = s₂.trace → s₁.tx.ackreq = s₂.tx.ackreq →
    s₁.tx.txvalid = false → s₂.tx.txvalid = false →
    runOps ops s₁ = .next t₁ → runOps ops s₂ = .next t₂ →
    t₁.trace = t₂.trace ∧ status t₁ = status t₂

/-! ## Reset, the step, the invariant -/

/-- 10_state.md R35: the register values after reset, those of `TXBUF[3..8]` apart, which the spec leaves unspecified
(decisions D5, D6, D7, D15). -/
def Obligations.ResetValues : Prop :=
  State.reset.rx =
    { idx := 0#4, acc := 0x0105#16, rxop := 0x00#8, rxack := 0x00#8, rxph := 0x00#8, rxpl := 0x00#8, ckok := false,
      nbytes := 0#32, npkts := 0#32, nerrs := 0#32 } ∧
  State.reset.tx.txvalid = false ∧ State.reset.tx.ackreq = true ∧
  State.reset.tx.buf[0] = 0x7E#8 ∧ State.reset.tx.buf[1] = 0xFF#8 ∧ State.reset.tx.buf[2] = 0x06#8 ∧
  State.reset.tx.buf[9] = 0xEF#8

/-- 42_system_ops.md R152, 70_reset_and_hazards.md R222 (decisions D15, D26): with `rst` at the clock edge every
register takes its reset value, whatever `cmd_valid` and `cmd` are, the command is lost, and the response is quiet.
That the inputs still to come and the responses already given stay is the model's choice (log entry 16), and so is the
value of `TXBUF[3..8]` within `State.reset.tx` (log entry 1). -/
def Obligations.ResetWinsOverCommand : Prop :=
  ∀ (v : Bool) (w : Cmd) (rest : List Input) (s : State), s.pins = .edge true v w :: rest →
    step s = .next { tx := State.reset.tx, rx := State.reset.rx, pins := rest
                     trace := s.trace ++ [⟨false, false, none⟩] }

/-- A step runs the decoded instruction: of a command word at an edge without reset, of a received byte at the current
`IDX`, of an 80-bit frame, each after taking the input off the pending ones. Ten bytes that are no frame are fed in
order; an edge with no command, and no pending input at all, do what `NOP` does (42_system_ops.md R150, R155;
log entries 4, 5, 10). -/
def Obligations.StepRunsDecodedInstruction : Prop :=
  ∀ (s : State) (rest : List Input),
    (∀ w i, s.pins = .edge false true w :: rest → decode (.cmd w) = .ok i → step s = exec i { s with pins := rest }) ∧
    (∀ b i, s.pins = .rxByte b :: rest → decode (.rx s.rx.idx b) = .ok i → step s = exec i { s with pins := rest }) ∧
    (∀ f i, s.pins = .wire f :: rest → decode (.wire f) = .ok i → step s = exec i { s with pins := rest }) ∧
    (∀ f e, s.pins = .wire f :: rest → decode (.wire f) = .error e →
      step s = runOps (feeds (unpackFrame f).toList) { s with pins := rest }) ∧
    (∀ w, s.pins = .edge false false w :: rest → step s = exec .nop { s with pins := rest }) ∧
    (s.pins = [] → step s = exec .nop s)

/-- A table word placed by `withFetchWord` is what the very next step runs, with the registers, the responses and the
other inputs as they were, but for `IDX` where the word is a received byte (log entry 9). -/
def Obligations.FetchedWordRuns : Prop :=
  ∀ (s : State) (nbits w : Nat) (i : Instr), decodeTableWord nbits w = some i →
    ∃ u, step (s.withFetchWord nbits w) = exec i u ∧ u.tx = s.tx ∧ u.pins = s.pins ∧ u.trace = s.trace ∧
      u.rx = { s.rx with idx := u.rx.idx } ∧ (nbits ≠ 8 → u = s)

/-- 10_state.md R36 (a), (b), (d) hold at reset. -/
def Obligations.InvariantAtReset : Prop := Inv State.reset

/-- 10_state.md R36 (a), (b), (d) (derived in the spec): every step keeps the invariant, from every state that has it;
hence so does every operation. -/
def Obligations.StepKeepsInvariant : Prop :=
  (∀ s t : State, Inv s → step s = .next t → Inv t) ∧
  (∀ (i : Instr) (s t : State), Inv s → exec i s = .next t → Inv t)

/-! ## The environment -/

/-- 43_environment.md R163, R165: while busy a send fails and nothing changes at all; otherwise it issues `FILL` and
`EMIT`, the frame goes out, the busy deadline is set anew, the time of the send is recorded, and the handler calls and
the channel are untouched. The one-parameter form splits its parameter high byte first. -/
def Obligations.SendGate : Prop :=
  ∀ (tw : Nat) (cfg : EnvConfig tw) (now : BitVec tw) (op hi lo : Byte) (d : Driver tw),
    ((now - d.busy.tSet).toNat < d.busy.window → send cfg now op hi lo d = (d, false)) ∧
    (¬ (now - d.busy.tSet).toNat < d.busy.window →
      (send cfg now op hi lo d).2 = true ∧
      runOps [.fill op hi lo, .emit] d.block = .next (send cfg now op hi lo d).1.block ∧
      txStream (send cfg now op hi lo d).1.block = txStream d.block ++
        (encodedFrame op (if d.block.tx.ackreq then 0x01#8 else 0x00#8) hi lo).toList ∧
      (send cfg now op hi lo d).1.busy.tSet = now ∧ (send cfg now op hi lo d).1.lastSend = now ∧
      (send cfg now op hi lo d).1.calls = d.calls ∧ (send cfg now op hi lo d).1.channel = d.channel) ∧
    (∀ p : Half, send16 cfg now op p d = send cfg now op (p.extractLsb' 8 8) (p.extractLsb' 0 8) d)

/-- 43_environment.md R164: the windows armed by a successful send, by opcode. What the other rows do to `OVERDUE` is
not stated there and stays open (log entry 11). -/
def Obligations.SendArmsWindows : Prop :=
  ∀ (tw : Nat) (cfg : EnvConfig tw) (now : BitVec tw) (op hi lo : Byte) (d : Driver tw),
    ¬ (now - d.busy.tSet).toNat < d.busy.window →
    (op = 0x0C#8 →
      (send cfg now op hi lo d).1.busy = ⟨now, cfg.tBootBusy⟩ ∧
      (send cfg now op hi lo d).1.overdue = some ⟨now, cfg.tBootOverdue⟩) ∧
    (op ≠ 0x0C#8 → op = cfg.opMediaSelect → (send cfg now op hi lo d).1.busy = ⟨now, cfg.tMediaBusy⟩) ∧
    (op ≠ 0x0C#8 → op ≠ cfg.opMediaSelect → d.block.tx.ackreq = false →
      (send cfg now op hi lo d).1.busy = ⟨now, cfg.tSettle⟩) ∧
    (op ≠ 0x0C#8 → op ≠ cfg.opMediaSelect → d.block.tx.ackreq = true →
      (send cfg now op hi lo d).1.busy = ⟨now, 0⟩)

/-- 43_environment.md R181 (after R163, R164, R171): after a successful send of the reset command every send fails
until the boot window has elapsed and then succeeds; and with nothing received, the first poll past the overdue window
calls the handler exactly once with the sentinel opcode and the next poll not at all, the block being unchanged. That
the overdue window is over at its very end, and not only past it, is DEDUCED (log entry 20). -/
def Obligations.ResetCommandBusyThenOverdue : Prop :=
  ∀ (tw : Nat) (cfg : EnvConfig tw) (t₀ : BitVec tw) (hi lo : Byte) (d : Driver tw),
    ¬ (t₀ - d.busy.tSet).toNat < d.busy.window →
    let d₁ := (send cfg t₀ 0x0C#8 hi lo d).1
    (∀ (now : BitVec tw) (op h l : Byte),
      ((now - t₀).toNat < cfg.tBootBusy → send cfg now op h l d₁ = (d₁, false)) ∧
      (cfg.tBootBusy ≤ (now - t₀).toNat → (send cfg now op h l d₁).2 = true)) ∧
    (∀ now later : BitVec tw, d.channel = [] → cfg.tBootOverdue ≤ (now - t₀).toNat →
      ∃ p : Half, (poll cfg now d₁).calls = d₁.calls ++ [⟨0x00#8, p⟩] ∧
        (poll cfg later (poll cfg now d₁)).calls = (poll cfg now d₁).calls ∧
        (poll cfg later (poll cfg now d₁)).block = d₁.block)

/-- 43_environment.md R166, R170: a poll feeds the block exactly the bytes available at its entry, all of them and in
order, with an `RXRESET` after each that completes a frame, and issues nothing else to it. -/
def Obligations.PollFeedsWhatWasAvailable : Prop :=
  ∀ (tw : Nat) (cfg : EnvConfig tw) (now : BitVec tw) (d : Driver tw),
    serveBytes d.channel d.block = .next (poll cfg now d).block ∧
    (poll cfg now d).channel = [] ∧ (poll cfg now d).block.tx = d.block.tx ∧
    (poll cfg now d).block.rx.nbytes = d.block.rx.nbytes + BitVec.ofNat 32 d.channel.length

/-- 43_environment.md R167, R168, R170: a frame waiting on the channel while the cursor is at 0 is forwarded to the
handler once, as `(rx_opcode, rx_param)`, when its checksum is right, and dropped when it is not; either way the
cursor is reset for the next frame. -/
def Obligations.PollForwardsValidFramesOnly : Prop :=
  ∀ (tw : Nat) (cfg : EnvConfig tw) (now : BitVec tw) (op ack hi lo ckh ckl : Byte) (d : Driver tw),
    d.channel = (frameBytes op ack hi lo ckh ckl).toList → d.block.rx.idx = 0#4 → d.block.rx.acc = 0x0105#16 →
    d.overdue = none →
    (wellFormedFrame (frameBytes op ack hi lo ckh ckl) = true →
      (poll cfg now d).calls = d.calls ++ [⟨op, hi ++ lo⟩]) ∧
    (wellFormedFrame (frameBytes op ack hi lo ckh ckl) = false →
      (poll cfg now d).calls = d.calls ∧ (poll cfg now d).busy = d.busy) ∧
    (poll cfg now d).block.rx.idx = 0#4 ∧ (poll cfg now d).block.rx.acc = 0x0105#16

/-- 43_environment.md R170, 70_reset_and_hazards.md R225: the driver never feeds a byte to a block that holds a
completed frame: polls keep `IDX` at 9 or below, so the defensive reset of R133 is never taken. -/
def Obligations.PollNeverLosesAByte : Prop :=
  ∀ (tw : Nat) (cfg : EnvConfig tw) (now : BitVec tw) (d : Driver tw), d.block.rx.idx ≤ 9#4 →
    (∀ n, (takeBytes cfg now n d).block.rx.idx ≤ 9#4) ∧ (poll cfg now d).block.rx.idx ≤ 9#4
end

