-- ==== Sys2Proof/Laws/State.lean ====
section
/-! SUPPORT. What each register update leaves in each field: one lemma per field, true by `rfl`, so that no later
proof unfolds a record update. -/

namespace Sys2Proof.Machine

variable (r : Response) (s : State) (f : Frame) (x : RxRegs) (t : TxRegs) (op hi lo : Byte)

@[simp] theorem respond_tx : (respond r s).tx = s.tx := rfl
@[simp] theorem respond_rx : (respond r s).rx = s.rx := rfl
@[simp] theorem respond_pins : (respond r s).pins = s.pins := rfl
@[simp] theorem respond_trace : (respond r s).trace = s.trace ++ [r] := rfl

@[simp] theorem refuse_tx : (refuse s).tx = s.tx := rfl
@[simp] theorem refuse_rx : (refuse s).rx = s.rx := rfl
@[simp] theorem refuse_pins : (refuse s).pins = s.pins := rfl
@[simp] theorem refuse_trace : (refuse s).trace = s.trace ++ [Response.refusal] := rfl

@[simp] theorem txWrite_tx : (txWrite f s).tx = s.tx := rfl
@[simp] theorem txWrite_rx : (txWrite f s).rx = s.rx := rfl
@[simp] theorem txWrite_pins : (txWrite f s).pins = s.pins := rfl
@[simp] theorem txWrite_trace : (txWrite f s).trace = s.trace ++ [Response.emitted f] := rfl

@[simp] theorem hardReset_tx : (hardReset s).tx = TxRegs.reset := rfl
@[simp] theorem hardReset_rx : (hardReset s).rx = RxRegs.reset := rfl
@[simp] theorem hardReset_pins : (hardReset s).pins = s.pins := rfl
@[simp] theorem hardReset_trace : (hardReset s).trace = s.trace ++ [Response.quiet] := rfl

@[simp] theorem cursorReset_idx : (cursorReset x).idx = 0#4 := rfl
@[simp] theorem cursorReset_acc : (cursorReset x).acc = Config.ACC_INIT := rfl
@[simp] theorem cursorReset_rxop : (cursorReset x).rxop = x.rxop := rfl
@[simp] theorem cursorReset_rxack : (cursorReset x).rxack = x.rxack := rfl
@[simp] theorem cursorReset_rxph : (cursorReset x).rxph = x.rxph := rfl
@[simp] theorem cursorReset_rxpl : (cursorReset x).rxpl = x.rxpl := rfl
@[simp] theorem cursorReset_ckok : (cursorReset x).ckok = x.ckok := rfl
@[simp] theorem cursorReset_nbytes : (cursorReset x).nbytes = x.nbytes := rfl
@[simp] theorem cursorReset_npkts : (cursorReset x).npkts = x.npkts := rfl
@[simp] theorem cursorReset_nerrs : (cursorReset x).nerrs = x.nerrs := rfl

@[simp] theorem framingError_idx : (framingError x).idx = 0#4 := rfl
@[simp] theorem framingError_acc : (framingError x).acc = Config.ACC_INIT := rfl
@[simp] theorem framingError_rxop : (framingError x).rxop = x.rxop := rfl
@[simp] theorem framingError_rxack : (framingError x).rxack = x.rxack := rfl
@[simp] theorem framingError_rxph : (framingError x).rxph = x.rxph := rfl
@[simp] theorem framingError_rxpl : (framingError x).rxpl = x.rxpl := rfl
@[simp] theorem framingError_ckok : (framingError x).ckok = x.ckok := rfl
@[simp] theorem framingError_nbytes : (framingError x).nbytes = x.nbytes := rfl
@[simp] theorem framingError_npkts : (framingError x).npkts = x.npkts := rfl
@[simp] theorem framingError_nerrs : (framingError x).nerrs = x.nerrs + 1#32 := rfl

@[simp] theorem countByte_idx : (countByte x).idx = x.idx := rfl
@[simp] theorem countByte_acc : (countByte x).acc = x.acc := rfl
@[simp] theorem countByte_rxop : (countByte x).rxop = x.rxop := rfl
@[simp] theorem countByte_rxack : (countByte x).rxack = x.rxack := rfl
@[simp] theorem countByte_rxph : (countByte x).rxph = x.rxph := rfl
@[simp] theorem countByte_rxpl : (countByte x).rxpl = x.rxpl := rfl
@[simp] theorem countByte_ckok : (countByte x).ckok = x.ckok := rfl
@[simp] theorem countByte_nbytes : (countByte x).nbytes = x.nbytes + 1#32 := rfl
@[simp] theorem countByte_npkts : (countByte x).npkts = x.npkts := rfl
@[simp] theorem countByte_nerrs : (countByte x).nerrs = x.nerrs := rfl

@[simp] theorem fillRegs_op : (fillRegs op hi lo t).op = op := rfl
@[simp] theorem fillRegs_ack : (fillRegs op hi lo t).ack = ackByte t.ackreq := rfl
@[simp] theorem fillRegs_hi : (fillRegs op hi lo t).hi = hi := rfl
@[simp] theorem fillRegs_lo : (fillRegs op hi lo t).lo = lo := rfl
@[simp] theorem fillRegs_txvalid : (fillRegs op hi lo t).txvalid = true := rfl
@[simp] theorem fillRegs_ackreq : (fillRegs op hi lo t).ackreq = t.ackreq := rfl

/-- After a `FILL` the buffer is the encoded frame (R100, R105). -/
@[simp] theorem fillRegs_buf : (fillRegs op hi lo t).buf = encodedFrame op (ackByte t.ackreq) hi lo := rfl

variable (rule : Byte → RxRegs → RxRegs × Bool) (b : Byte)

@[simp] theorem consume_tx : (consume rule b s).tx = s.tx := rfl
@[simp] theorem consume_rx : (consume rule b s).rx = (rule b (countByte s.rx)).1 := rfl
@[simp] theorem consume_pins : (consume rule b s).pins = s.pins := rfl
@[simp] theorem consume_trace :
    (consume rule b s).trace = s.trace ++ [Response.result (rule b (countByte s.rx)).2] := rfl

@[simp] theorem feedByte_tx : (feedByte b s).tx = s.tx := rfl
@[simp] theorem feedByte_pins : (feedByte b s).pins = s.pins := rfl
@[simp] theorem feedByte_rx : (feedByte b s).rx = (positionRule s.rx.idx b (countByte s.rx)).1 := rfl
@[simp] theorem feedByte_trace :
    (feedByte b s).trace = s.trace ++ [Response.result (positionRule s.rx.idx b (countByte s.rx)).2] := rfl

/-- The last response is the one just given (R37). -/
@[simp] theorem lastResponse_respond : lastResponse (respond r s) = r := by simp [lastResponse]

@[simp] theorem lastResponse_consume :
    lastResponse (consume rule b s) = Response.result (rule b (countByte s.rx)).2 := by
  simp [lastResponse]

@[simp] theorem lastResponse_feedByte :
    lastResponse (feedByte b s) = Response.result (positionRule s.rx.idx b (countByte s.rx)).2 :=
  lastResponse_consume s _ b

end Sys2Proof.Machine
end

