-- ==== Sys2Proof/Laws/Ops.lean ====
section
/-! SUPPORT. One lemma per shared operation that says once what it can do, and the laws of runs of bytes and of
operations. -/

namespace Sys2Proof.Machine

/-- Everything a verify position can do (R125): it advances on its byte, or it takes a framing error and hunts again,
from the version position when the byte is a start marker. -/
theorem verify_cases (expected b : Byte) (r : RxRegs) :
    (b = expected ∧ verify expected b r = { r with idx := r.idx + 1#4 }) ∨
    (b ≠ expected ∧ b = Config.START ∧ verify expected b r = { framingError r with idx := 1#4 }) ∨
    (b ≠ expected ∧ b ≠ Config.START ∧ verify expected b r = framingError r) := by
  unfold verify
  split
  · exact .inl ⟨‹_›, rfl⟩
  · split
    · exact .inr (.inl ⟨‹_›, ‹_›, rfl⟩)
    · exact .inr (.inr ⟨‹_›, ‹_›, rfl⟩)

/-- Everything the terminator position can do (R132). -/
theorem posTerminator_cases (b : Byte) (r : RxRegs) :
    (b = Config.END ∧ posTerminator b r = ({ r with npkts := r.npkts + 1#32, idx := 10#4 }, true)) ∨
    (b ≠ Config.END ∧ posTerminator b r = (framingError r, false)) := by
  unfold posTerminator
  split
  · exact .inl ⟨‹_›, rfl⟩
  · exact .inr ⟨‹_›, rfl⟩

/-- The rule at each value of `IDX` (R120). -/
theorem positionRule_cases (idx : BitVec 4) :
    (idx = 0#4 ∧ positionRule idx = posStart) ∨ (idx = 1#4 ∧ positionRule idx = posVersion) ∨
    (idx = 2#4 ∧ positionRule idx = posLength) ∨ (idx = 3#4 ∧ positionRule idx = posOpcode) ∨
    (idx = 4#4 ∧ positionRule idx = posAck) ∨ (idx = 5#4 ∧ positionRule idx = posParamHigh) ∨
    (idx = 6#4 ∧ positionRule idx = posParamLow) ∨ (idx = 7#4 ∧ positionRule idx = posCheckHigh) ∨
    (idx = 8#4 ∧ positionRule idx = posCheckLow) ∨ (idx = 9#4 ∧ positionRule idx = posTerminator) ∨
    (10#4 ≤ idx ∧ positionRule idx = posOutside) := by
  have cover : ∀ k : BitVec 4, k = 0#4 ∨ k = 1#4 ∨ k = 2#4 ∨ k = 3#4 ∨ k = 4#4 ∨ k = 5#4 ∨ k = 6#4 ∨ k = 7#4 ∨
      k = 8#4 ∨ k = 9#4 ∨ k = 10#4 ∨ k = 11#4 ∨ k = 12#4 ∨ k = 13#4 ∨ k = 14#4 ∨ k = 15#4 := by decide
  rcases cover idx with h | h | h | h | h | h | h | h | h | h | h | h | h | h | h | h <;> subst h <;>
    simp [positionRule]

/-- At each position the rule that runs there. -/
@[simp] theorem positionRule_start : positionRule 0#4 = posStart := rfl
@[simp] theorem positionRule_version : positionRule 1#4 = posVersion := rfl
@[simp] theorem positionRule_length : positionRule 2#4 = posLength := rfl
@[simp] theorem positionRule_opcode : positionRule 3#4 = posOpcode := rfl
@[simp] theorem positionRule_ack : positionRule 4#4 = posAck := rfl
@[simp] theorem positionRule_paramHigh : positionRule 5#4 = posParamHigh := rfl
@[simp] theorem positionRule_paramLow : positionRule 6#4 = posParamLow := rfl
@[simp] theorem positionRule_checkHigh : positionRule 7#4 = posCheckHigh := rfl
@[simp] theorem positionRule_checkLow : positionRule 8#4 = posCheckLow := rfl
@[simp] theorem positionRule_terminator : positionRule 9#4 = posTerminator := rfl

theorem positionRule_outside {idx : BitVec 4} (h : 10#4 ≤ idx) : positionRule idx = posOutside := by
  rcases positionRule_cases idx with
    ⟨rfl, _⟩ | ⟨rfl, _⟩ | ⟨rfl, _⟩ | ⟨rfl, _⟩ | ⟨rfl, _⟩ | ⟨rfl, _⟩ | ⟨rfl, _⟩ | ⟨rfl, _⟩ | ⟨rfl, _⟩ | ⟨rfl, _⟩ |
    ⟨_, e⟩
  all_goals first | exact absurd h (by decide) | exact e

@[simp] theorem feedBytes_nil (s : State) : feedBytes [] s = s := rfl

@[simp] theorem feedBytes_cons (b : Byte) (bs : List Byte) (s : State) :
    feedBytes (b :: bs) s = feedBytes bs (feedByte b s) := rfl

theorem feedBytes_append (bs cs : List Byte) (s : State) :
    feedBytes (bs ++ cs) s = feedBytes cs (feedBytes bs s) := by
  simp [feedBytes, List.foldl_append]

/-- Received bytes leave the transmit side and the pending inputs alone (R61). -/
theorem feedBytes_frame (bs : List Byte) (s : State) :
    (feedBytes bs s).tx = s.tx ∧ (feedBytes bs s).pins = s.pins := by
  induction bs generalizing s with
  | nil => exact ⟨rfl, rfl⟩
  | cons b bs ih => simpa using ih (feedByte b s)

/-- A byte whose rule at the current position is known. -/
theorem feedByte_eq {s : State} {rule : Byte → RxRegs → RxRegs × Bool} (h : positionRule s.rx.idx = rule) (b : Byte) :
    feedByte b s = consume rule b s := by
  rw [feedByte, h]

@[simp] theorem runOps_nil (s : State) : runOps [] s = .next s := rfl

theorem runOps_cons {i : Instr} {is : List Instr} {s t : State} (h : exec i s = .next t) :
    runOps (i :: is) s = runOps is t := by
  simp [runOps, h]

/-- A run of `FEED`s is the left fold of R58 (b). -/
theorem runOps_feeds (bs : List Byte) (s : State) : runOps (feeds bs) s = .next (feedBytes bs s) := by
  induction bs generalizing s with
  | nil => rfl
  | cons b bs ih =>
    have h : exec (.feed b) s = .next (feedByte b s) := rfl
    simpa [feeds, runOps_cons h] using ih (feedByte b s)

end Sys2Proof.Machine
end

