-- ==== Sys2Proof/Laws/Exec.lean ====
section
/-! SUPPORT. Each instruction's meaning in terms of the shared operations, the step's cases, and the arithmetic of the
checksum. -/

namespace Sys2Proof.Machine

variable (s : State) (b op ack hi lo ckh ckl : Byte)

theorem exec_nop : exec .nop s = .next (respond Response.quiet s) := rfl
theorem exec_rsv6 : exec .rsv6 s = .next (refuse s) := rfl
theorem exec_rsv7 : exec .rsv7 s = .next (refuse s) := rfl
theorem exec_fill :
    exec (.fill op hi lo) s = .next (respond Response.quiet { s with tx := fillRegs op hi lo s.tx }) := rfl
theorem exec_setack (v : Bool) :
    exec (.setack v) s = .next (respond Response.quiet { s with tx := { s.tx with ackreq := v } }) := rfl
theorem exec_rxreset :
    exec .rxreset s = .next (respond Response.quiet { s with rx := cursorReset s.rx }) := rfl
theorem exec_feed : exec (.feed b) s = .next (feedByte b s) := rfl
theorem exec_frame :
    exec (.frame op ack hi lo ckh ckl) s = .next (feedBytes (frameBytes op ack hi lo ckh ckl).toList s) := rfl

theorem exec_emit_performed {s : State} (h : s.tx.txvalid = true) :
    exec .emit s = .next (txWrite s.tx.buf s) := by
  simp [exec, execEmit, h]

theorem exec_emit_refused {s : State} (h : s.tx.txvalid = false) : exec .emit s = .next (refuse s) := by
  simp [exec, execEmit, h]

/-- An operation that feeds one byte does so by the rule at the current `IDX`, whichever row it is (R120). -/
theorem exec_oneByte {i : Instr} {b : Byte} (h : fedBytes i = [b]) (s : State) : exec i s = .next (feedByte b s) := by
  have row {rule : Byte → RxRegs → RxRegs × Bool} {p : Prop} [Decidable p] (e : p → positionRule s.rx.idx = rule) :
      (if p then .next (consume rule b s) else .next (feedByte b s) : Host.Outcome State Fault Refusal) =
        .next (feedByte b s) := by
    split
    · rw [feedByte_eq (e ‹_›)]
    · rfl
  cases i
  case frame => exact absurd (congrArg List.length h) (by simp [fedBytes])
  case nop | fill | emit | rxreset | setack | rsv6 | rsv7 => simp [fedBytes] at h
  all_goals
    obtain rfl : _ = b := by simpa [fedBytes] using h
  case feed => rfl
  case rxpos0 => exact row fun e => e ▸ positionRule_start
  case rxpos1 => exact row fun e => e ▸ positionRule_version
  case rxpos2 => exact row fun e => e ▸ positionRule_length
  case rxpos3 => exact row fun e => e ▸ positionRule_opcode
  case rxpos4 => exact row fun e => e ▸ positionRule_ack
  case rxpos5 => exact row fun e => e ▸ positionRule_paramHigh
  case rxpos6 => exact row fun e => e ▸ positionRule_paramLow
  case rxpos7 => exact row fun e => e ▸ positionRule_checkHigh
  case rxpos8 => exact row fun e => e ▸ positionRule_checkLow
  case rxpos9 => exact row fun e => e ▸ positionRule_terminator
  case rxpos10 => exact row positionRule_outside

/-- Everything an operation can do, and when: receive its bytes in order, fill, set `ACKREQ`, emit, be refused, reset
the cursor, or nothing (R155). -/
theorem exec_cases {i : Instr} {s t : State} (h : exec i s = .next t) :
    (fedBytes i ≠ [] ∧ t = feedBytes (fedBytes i) s) ∨
    (∃ op hi lo, i = .fill op hi lo ∧ t = respond Response.quiet { s with tx := fillRegs op hi lo s.tx }) ∨
    (∃ v, i = .setack v ∧ t = respond Response.quiet { s with tx := { s.tx with ackreq := v } }) ∨
    (i = .emit ∧ s.tx.txvalid = true ∧ t = txWrite s.tx.buf s) ∨
    (((i = .emit ∧ s.tx.txvalid = false) ∨ i = .rsv6 ∨ i = .rsv7) ∧ t = refuse s) ∨
    (i = .rxreset ∧ t = respond Response.quiet { s with rx := cursorReset s.rx }) ∨
    (i = .nop ∧ t = respond Response.quiet s) := by
  have fed {b : Byte} (e : fedBytes i = [b]) : fedBytes i ≠ [] ∧ t = feedBytes (fedBytes i) s := by
    rw [exec_oneByte e] at h
    cases h
    simp [e]
  cases i
  case nop | rxreset | rsv6 | rsv7 | setack | fill => cases h; simp [releaseCursor]
  case emit =>
    cases v : s.tx.txvalid
    · rw [exec_emit_refused v] at h; cases h; simp
    · rw [exec_emit_performed v] at h; cases h; simp
  case frame => rw [exec_frame] at h; cases h; exact .inl ⟨by simp [fedBytes], rfl⟩
  all_goals exact .inl (fed rfl)

/-- A step with a known oldest input. -/
theorem step_cons {s : State} {p : Input} {rest : List Input} (h : s.pins = p :: rest) :
    step s = execInput p { s with pins := rest } := by
  simp [step, execNext, h]

/-- A step with no input pending. -/
theorem step_nil {s : State} (h : s.pins = []) : step s = exec .nop s := by
  simp [step, execNext, h]

/-- A 16-bit value is its high byte shifted plus its low byte (R51, R53). -/
theorem highByte_add_lowByte (acc p : Half) : addByte (addHigh acc (highByte p)) (lowByte p) = acc + p := by
  have key : ((zext16 (highByte p)) <<< 8) + zext16 (lowByte p) = p := by
    apply BitVec.eq_of_toNat_eq
    have := p.isLt
    simp [zext16, highByte, lowByte, BitVec.toNat_add, BitVec.toNat_shiftLeft, Nat.shiftLeft_eq,
      Nat.shiftRight_eq_div_pow]
    omega
  calc addByte (addHigh acc (highByte p)) (lowByte p)
      = acc + (((zext16 (highByte p)) <<< 8) + zext16 (lowByte p)) := by
        simp only [addByte, addHigh, BitVec.add_assoc]
    _ = acc + p := by rw [key]

/-- A 16-bit value is its high byte before its low byte (R53). -/
@[simp] theorem joinBytes_split (p : Half) : joinBytes (highByte p) (lowByte p) = p := by
  apply BitVec.eq_of_getLsbD_eq
  intro i hi
  simp only [joinBytes, highByte, lowByte, BitVec.getLsbD_append, BitVec.getLsbD_extractLsb']
  split
  · simp_all
  · have : i - 8 < 8 := by omega
    simp [this, show 8 + (i - 8) = i by omega]

/-- The sum of a frame with its own checksum vanishes (R76). -/
theorem receivedSum_checksum :
    receivedSum op ack hi lo (highByte (checksum op ack hi lo)) (lowByte (checksum op ack hi lo)) = 0#16 := by
  rw [receivedSum, highByte_add_lowByte, checksum]
  simp

end Sys2Proof.Machine
end

