-- ==== Sys2Proof/Laws/Driver.lean ====
section
/-! SUPPORT. The environment's deadlines, what a notification does to the busy window, what a send and the first query
do to the block, and a poll's byte as the host's own operations. -/

namespace Sys2Proof.Machine

variable {tw : Nat} (cfg : EnvConfig tw) (now : BitVec tw)

/-- A deadline runs exactly while something is left of it (R161). -/
theorem runningAt_iff (t : Deadline tw) : runningAt t now = true ↔ 0 < remaining t now := by
  simp [runningAt, remaining]

/-- What is left of a deadline set now is its whole window. -/
@[simp] theorem remaining_set (w : Nat) : remaining ⟨now, w⟩ now = w := by simp [remaining]

/-- A notification never shortens the busy window (R169). -/
theorem extendBusy_keeps (d : Driver tw) : remaining d.busy now ≤ remaining (extendBusy cfg now d).busy now := by
  unfold extendBusy
  split
  · simp [extendedWindow]
  · exact Nat.le_refl _

/-- A notification leaves the link busy for `T_NOTIFY_EXTEND` at least (R169). -/
theorem extendBusy_extends {d : Driver tw} (h : cfg.isNotification d.block.rx.rxop = true) :
    cfg.tNotifyExtend ≤ remaining (extendBusy cfg now d).busy now := by
  simp only [extendBusy, h, if_true, remaining_set, extendedWindow]
  omega

/-- A link that would be busy at a later time is busy then with the notification too, within one turn of the clock
(R161, R169). -/
theorem extendBusy_later {d : Driver tw} (later : BitVec tw)
    (turn : (now - d.busy.tSet).toNat + (later - now).toNat < 2 ^ tw) (h : runningAt d.busy later = true) :
    runningAt (extendBusy cfg now d).busy later = true := by
  unfold extendBusy
  split
  · have elapsed : (later - d.busy.tSet).toNat = (now - d.busy.tSet).toNat + (later - now).toNat := by
      have e : later - d.busy.tSet = (now - d.busy.tSet) + (later - now) := by
        rw [BitVec.add_comm, BitVec.sub_eq_add_neg, BitVec.sub_eq_add_neg, BitVec.sub_eq_add_neg, BitVec.add_assoc,
          ← BitVec.add_assoc (-now), BitVec.add_left_neg, BitVec.zero_add]
      rw [e, BitVec.toNat_add, Nat.mod_eq_of_lt turn]
    simp only [runningAt, decide_eq_true_eq, elapsed] at h ⊢
    have left : (later - now).toNat < remaining d.busy now := by unfold remaining; omega
    exact Nat.lt_of_lt_of_le left (Nat.le_max_left _ _)
  · exact h

/-- The environment has what a next state answers. -/
@[simp] theorem issue_next {i : Instr} {s t : State} (h : exec i s = .next t) : issue i s = t := by
  simp [issue, h]

/-- The two operations of a send: the frame is encoded and goes out, the receive side is as it was (R163). -/
theorem transmit_eq (op hi lo : Byte) (s : State) :
    transmit op hi lo s =
      txWrite (encodedFrame op (ackByte s.tx.ackreq) hi lo)
        (respond Response.quiet { s with tx := fillRegs op hi lo s.tx }) := by
  rw [transmit, issue_next (exec_fill s op hi lo), issue_next (exec_emit_performed rfl)]
  rfl

/-- Arming the windows is about the two deadlines alone (R164). -/
theorem armWindows_frame (op : Byte) (d : Driver tw) :
    (armWindows cfg now op d).block = d.block ∧ (armWindows cfg now op d).medium = d.medium ∧
    (armWindows cfg now op d).lastSend = d.lastSend ∧ (armWindows cfg now op d).channel = d.channel ∧
    (armWindows cfg now op d).calls = d.calls := by
  unfold armWindows
  split
  · exact ⟨rfl, rfl, rfl, rfl, rfl⟩
  · split <;> exact ⟨rfl, rfl, rfl, rfl, rfl⟩

/-- A send on a busy link does nothing (R163). -/
theorem send_busy {d : Driver tw} (h : runningAt d.busy now = true) (op hi lo : Byte) :
    send cfg now op hi lo d = (d, false) := by
  simp [send, h]

/-- A send on a free link transmits (R163). -/
theorem send_free {d : Driver tw} (h : runningAt d.busy now = false) (op hi lo : Byte) :
    (send cfg now op hi lo d).2 = true ∧ (send cfg now op hi lo d).1.block = transmit op hi lo d.block := by
  have free : ¬ runningAt d.busy now = true := by simp [h]
  simp only [send, if_neg free, (armWindows_frame cfg now op _).1, true_and]
  unfold noteMedium
  split <;> rfl

/-- A selection that is sent is recorded (R176). -/
theorem send_selects {d : Driver tw} (h : runningAt d.busy now = false) (m : Half) :
    (send16 cfg now cfg.opMediaSelect m d).1.medium = some m := by
  have free : ¬ runningAt d.busy now = true := by simp [h]
  simp [send16, send, if_neg free, (armWindows_frame cfg now _ _).2.1, noteMedium]

/-- The first query, on a free link with the medium unset, sends the selection before anything else and records it; the
query itself is the send that follows (R176, R224). -/
theorem first_query_selects {d : Driver tw} (unset : d.medium = none) (h : runningAt d.busy now = false) (m : Half)
    (op hi lo : Byte) :
    query cfg now m op hi lo d = send cfg now op hi lo (send16 cfg now cfg.opMediaSelect m d).1 ∧
    (send16 cfg now cfg.opMediaSelect m d).1.block =
      transmit cfg.opMediaSelect (highByte m) (lowByte m) d.block ∧
    (send16 cfg now cfg.opMediaSelect m d).1.medium = some m := by
  have sent := send_free cfg now h cfg.opMediaSelect (highByte m) (lowByte m)
  refine ⟨?_, sent.2, send_selects cfg now h m⟩
  have ok : (send16 cfg now cfg.opMediaSelect m d).2 = true := sent.1
  simp only [query, needsSelection, unset, ok, if_true]

/-- A query on a busy link does nothing, with a selection needed or not (R163). -/
theorem query_busy {d : Driver tw} (h : runningAt d.busy now = true) (m : Half) (op hi lo : Byte) :
    query cfg now m op hi lo d = (d, false) := by
  simp [query, send16, send_busy cfg now h]

/-- What a poll does to the block with one byte is what the host's own operations do (R166, R170). -/
theorem takeByte_serves (b : Byte) (d : Driver tw) :
    serveByte b d.block = .next (takeByte cfg now b d).block := by
  unfold serveByte takeByte
  rw [exec_feed, issue_next (exec_feed d.block b)]
  simp only
  split
  · simp only [afterFrame, exec_rxreset, issue_next (exec_rxreset _)]
  · rfl

end Sys2Proof.Machine
end

