-- ==== Sys2Proof/Laws/Encoding.lean ====
section
/-! SUPPORT. The bits and bytes of a command word and of a packed frame. -/

namespace Sys2Proof

/-- Bit `i` of a command word (30_encoding.md R80). -/
theorem cmdWord_bit (opc : BitVec 3) (a b c : Byte) (i : Nat) :
    (cmdWord opc a b c).getLsbD i =
      if i < 8 then c.getLsbD i else if i < 16 then b.getLsbD (i - 8)
      else if i < 24 then a.getLsbD (i - 16) else opc.getLsbD (i - 24) := by
  simp only [cmdWord, BitVec.getLsbD_append]
  split_ifs <;> first | rfl | omega

/-- The fields of a command word (R80). -/
theorem cmdWord_a (opc : BitVec 3) (a b c : Byte) : (cmdWord opc a b c).extractLsb' 16 8 = a := by
  apply BitVec.eq_of_getLsbD_eq
  intro i hi
  simp only [BitVec.getLsbD_extractLsb', cmdWord_bit, hi, decide_true, Bool.true_and]
  split_ifs <;> first | omega | (congr 1; omega)

theorem cmdWord_b (opc : BitVec 3) (a b c : Byte) : (cmdWord opc a b c).extractLsb' 8 8 = b := by
  apply BitVec.eq_of_getLsbD_eq
  intro i hi
  simp only [BitVec.getLsbD_extractLsb', cmdWord_bit, hi, decide_true, Bool.true_and]
  split_ifs <;> first | omega | (congr 1; omega)

theorem cmdWord_c (opc : BitVec 3) (a b c : Byte) : (cmdWord opc a b c).extractLsb' 0 8 = c := by
  apply BitVec.eq_of_getLsbD_eq
  intro i hi
  simp only [BitVec.getLsbD_extractLsb', cmdWord_bit, hi, decide_true, Bool.true_and]
  split_ifs <;> first | omega | (congr 1; omega)

/-- The fixed bits of a command word are its three top bits (R81). -/
theorem cmdWord_fixed (opc : BitVec 3) (a b c : Byte) :
    cmdWord opc a b c &&& 0x7000000#27 = cmdWord opc 0 0 0 := by
  apply BitVec.eq_of_getLsbD_eq
  intro i hi
  rw [BitVec.getLsbD_and, cmdWord_bit, cmdWord_bit]
  interval_cases i <;> simp

namespace Machine

/-- Ten bytes packed into 80 bits are read back byte by byte (R70). -/
theorem wireByte_packFrame (f : Frame) (k : Nat) (hk : k < 10) : wireByte (packFrame f) k = f[k] := by
  have high {n : Nat} (x : BitVec n) (y : Byte) (s : Nat) (h : 8 ≤ s) :
      (x ++ y).extractLsb' s 8 = x.extractLsb' (s - 8) 8 := by
    apply BitVec.eq_of_getLsbD_eq
    intro i hi
    have h1 : ¬ (s + i < 8) := by omega
    have h2 : s + i - 8 = s - 8 + i := by omega
    simp only [BitVec.getLsbD_extractLsb', BitVec.getLsbD_append, h1, h2, if_false]
  have low {n : Nat} (x : BitVec n) (y : Byte) : (x ++ y).extractLsb' 0 8 = y := by
    apply BitVec.eq_of_getLsbD_eq
    intro i hi
    simp only [BitVec.getLsbD_extractLsb', BitVec.getLsbD_append, Nat.zero_add, hi, decide_true, Bool.true_and,
      if_true]
  unfold wireByte packFrame
  interval_cases k <;> simp only [Nat.reduceSub, Nat.reduceMul, Nat.reduceLeDiff, high, low]
  simp

/-- Two 80-bit values with the same ten bytes are equal. -/
theorem wire_ext {v w : Wire} (h : ∀ k < 10, wireByte v k = wireByte w k) : v = w := by
  apply BitVec.eq_of_getLsbD_eq
  intro i hi
  have bit := congrArg (fun b => b.getLsbD (i % 8)) (h (9 - i / 8) (by omega))
  have e : 8 * (9 - (9 - i / 8)) + i % 8 = i := by omega
  have l : i % 8 < 8 := by omega
  simpa only [wireByte, BitVec.getLsbD_extractLsb', e, l, decide_true, Bool.true_and] using bit

/-- Masking acts byte by byte. -/
theorem wireByte_and (v w : Wire) (k : Nat) : wireByte (v &&& w) k = wireByte v k &&& wireByte w k := by
  apply BitVec.eq_of_getLsbD_eq
  intro i hi
  simp only [wireByte, BitVec.getLsbD_extractLsb', BitVec.getLsbD_and, hi, decide_true, Bool.true_and]

end Machine

/-- The fixed bits of the wire frame are its bytes 0, 1, 2 and 9 (R70, R71). -/
theorem isWireFrame_iff (f : Wire) :
    isWireFrame f = true ↔
      Machine.wireByte f 0 = Config.START ∧ Machine.wireByte f 1 = Config.VER ∧
      Machine.wireByte f 2 = Config.LEN ∧ Machine.wireByte f 9 = Config.END := by
  rw [isWireFrame, beq_iff_eq]
  have mask : ∀ k < 10, Machine.wireByte 0xFFFFFF000000000000FF#80 k = if k < 3 ∨ k = 9 then 0xFF#8 else 0#8 := by
    decide
  have fixed : ∀ k < 10, Machine.wireByte 0x7EFF06000000000000EF#80 k =
      if k = 0 then Config.START else if k = 1 then Config.VER else if k = 2 then Config.LEN
      else if k = 9 then Config.END else 0#8 := by decide
  have all : ∀ b : Byte, b &&& 255#8 = b := by decide
  constructor
  · intro h
    have g : ∀ k < 10, Machine.wireByte f k &&& Machine.wireByte 0xFFFFFF000000000000FF#80 k =
        Machine.wireByte 0x7EFF06000000000000EF#80 k := by
      intro k hk
      rw [← Machine.wireByte_and, h]
    have g0 := g 0 (by omega)
    have g1 := g 1 (by omega)
    have g2 := g 2 (by omega)
    have g9 := g 9 (by omega)
    rw [mask _ (by omega), fixed _ (by omega)] at g0 g1 g2 g9
    simp [all] at g0 g1 g2 g9
    exact ⟨g0, g1, g2, g9⟩
  · rintro ⟨h0, h1, h2, h9⟩
    apply Machine.wire_ext
    intro k hk
    rw [Machine.wireByte_and, mask k hk, fixed k hk]
    interval_cases k <;> simp [h0, h1, h2, h9, all]

/-- A packed frame has the wire frame's fixed bits (R70). -/
theorem isWireFrame_packFrame (op ack hi lo ckh ckl : Byte) :
    isWireFrame (Machine.packFrame (Machine.frameBytes op ack hi lo ckh ckl)) = true := by
  rw [isWireFrame_iff]
  exact ⟨Machine.wireByte_packFrame _ 0 (by omega), Machine.wireByte_packFrame _ 1 (by omega),
    Machine.wireByte_packFrame _ 2 (by omega), Machine.wireByte_packFrame _ 9 (by omega)⟩

end Sys2Proof
end

