-- ==== Sys2Proof/Laws/PerInstr.lean ====
section
/-! SUPPORT. Statements made per instruction, about the instruction as syntax. -/

namespace Sys2Proof.Laws

/-- The `match` of a command row of opcode_table.json, under the mask `0x7000000` (30_encoding.md R81). -/
def rowMatch (i : Instr) : Option Cmd :=
  match i with
  | .nop => some 0x0000000#27
  | .fill _ _ _ => some 0x1000000#27
  | .emit => some 0x2000000#27
  | .feed _ => some 0x3000000#27
  | .rxreset => some 0x4000000#27
  | .setack _ => some 0x5000000#27
  | .rsv6 => some 0x6000000#27
  | .rsv7 => some 0x7000000#27
  | .frame _ _ _ _ _ _ => none
  | .rxpos0 _ | .rxpos1 _ | .rxpos2 _ | .rxpos3 _ | .rxpos4 _ | .rxpos5 _ => none
  | .rxpos6 _ | .rxpos7 _ | .rxpos8 _ | .rxpos9 _ | .rxpos10 _ => none

/-- The position of a receive row of opcode_table.json, its `when`. -/
def rowPosition (i : Instr) : Option (BitVec 4) :=
  match i with
  | .nop | .fill _ _ _ | .emit | .feed _ | .rxreset | .setack _ | .rsv6 | .rsv7 | .frame _ _ _ _ _ _ => none
  | .rxpos0 _ => some 0#4
  | .rxpos1 _ => some 1#4
  | .rxpos2 _ => some 2#4
  | .rxpos3 _ => some 3#4
  | .rxpos4 _ => some 4#4
  | .rxpos5 _ => some 5#4
  | .rxpos6 _ => some 6#4
  | .rxpos7 _ => some 7#4
  | .rxpos8 _ => some 8#4
  | .rxpos9 _ => some 9#4
  | .rxpos10 _ => some 10#4

/-- An encoding carries the fixed bits of its row in opcode_table.json: a command row's `match` under its mask, the
wire frame's fixed bytes, a receive row's position (R70, R81). -/
def FixedBits.Statement (i : Instr) : Prop :=
  match encode i with
  | .cmd w    => rowMatch i = some (w &&& 0x7000000#27)
  | .wire f   => isWireFrame f = true
  | .rx idx _ => rowPosition i = some idx

theorem FixedBits.nop : FixedBits.Statement .nop := rfl
theorem FixedBits.fill (op hi lo : Byte) : FixedBits.Statement (.fill op hi lo) :=
  congrArg some (cmdWord_fixed 1 op hi lo).symm
theorem FixedBits.emit : FixedBits.Statement .emit := rfl
theorem FixedBits.feed (b : Byte) : FixedBits.Statement (.feed b) := congrArg some (cmdWord_fixed 3 0 0 b).symm
theorem FixedBits.rxreset : FixedBits.Statement .rxreset := rfl
theorem FixedBits.setack (v : Bool) : FixedBits.Statement (.setack v) :=
  congrArg some (cmdWord_fixed 5 0 0 (Machine.ackByte v)).symm
theorem FixedBits.rsv6 : FixedBits.Statement .rsv6 := rfl
theorem FixedBits.rsv7 : FixedBits.Statement .rsv7 := rfl
theorem FixedBits.frame (op ack hi lo ckh ckl : Byte) : FixedBits.Statement (.frame op ack hi lo ckh ckl) :=
  isWireFrame_packFrame op ack hi lo ckh ckl
theorem FixedBits.rxpos0 (b : Byte) : FixedBits.Statement (.rxpos0 b) := rfl
theorem FixedBits.rxpos1 (b : Byte) : FixedBits.Statement (.rxpos1 b) := rfl
theorem FixedBits.rxpos2 (b : Byte) : FixedBits.Statement (.rxpos2 b) := rfl
theorem FixedBits.rxpos3 (b : Byte) : FixedBits.Statement (.rxpos3 b) := rfl
theorem FixedBits.rxpos4 (b : Byte) : FixedBits.Statement (.rxpos4 b) := rfl
theorem FixedBits.rxpos5 (b : Byte) : FixedBits.Statement (.rxpos5 b) := rfl
theorem FixedBits.rxpos6 (b : Byte) : FixedBits.Statement (.rxpos6 b) := rfl
theorem FixedBits.rxpos7 (b : Byte) : FixedBits.Statement (.rxpos7 b) := rfl
theorem FixedBits.rxpos8 (b : Byte) : FixedBits.Statement (.rxpos8 b) := rfl
theorem FixedBits.rxpos9 (b : Byte) : FixedBits.Statement (.rxpos9 b) := rfl
theorem FixedBits.rxpos10 (b : Byte) : FixedBits.Statement (.rxpos10 b) := rfl

end Sys2Proof.Laws
end

