-- ==== Sys2Proof/Tests/Slice0.lean ====
section
/-! SUPPORT. The model's own tests. Every expected value is taken from spec/: the worked examples of the rules and the
vectors of 95_test_vectors.md, named in each docstring. The second half holds a witness for the hypotheses of every
statement of Certificates/Slice0/Obligations.lean that has hypotheses. -/

namespace Sys2Proof.Tests

open Sys2Proof.Machine

/-! ## Helpers -/

/-- The state an outcome answers. -/
def stateOf (o : Host.Outcome State Fault Refusal) : Option State :=
  match o with
  | .next t    => some t
  | .fault _   => none
  | .refused _ => none

/-- The receive registers an outcome answers. -/
def rxOf (o : Host.Outcome State Fault Refusal) : Option RxRegs := (stateOf o).map State.rx

/-- The last response an outcome answers. -/
def answer (o : Host.Outcome State Fault Refusal) : Option Response := (stateOf o).map lastResponse

/-- The reset state with the cursor at `k` and the accumulator at `a`. -/
def rxAt (k : BitVec 4) (a : Half) : State :=
  { State.reset with rx := { RxRegs.reset with idx := k, acc := a } }

/-- The reset state after `FILL 03, 00, 05` (E1). -/
def filled : State :=
  { State.reset with
    tx := { op := 0x03#8, ack := 0x01#8, hi := 0x00#8, lo := 0x05#8, ckh := 0xFE#8, ckl := 0xF2#8
            txvalid := true, ackreq := true } }

/-- The ten bytes of `play(5)` (E1). -/
def play5 : Frame := #v[0x7E#8, 0xFF#8, 0x06#8, 0x03#8, 0x01#8, 0x00#8, 0x05#8, 0xFE#8, 0xF2#8, 0xEF#8]

/-! ## Well-formedness -/

/-- The one check: a `FRAME` with E1's wrong literal `FE F1` is refused (30_encoding.md R77, 90_conflicts.md C1). -/
theorem test_wellFormed_refuses_bad_checksum :
    (Instr.frame 0x03#8 0x01#8 0x00#8 0x05#8 0xFE#8 0xF1#8).wellFormed = false := by decide

/-- E1's frame is well-formed. -/
theorem test_wellFormed_accepts_play5 :
    (Instr.frame 0x03#8 0x01#8 0x00#8 0x05#8 0xFE#8 0xF2#8).wellFormed = true := by decide

/-! ## Decoding: words written out from opcode_table.json and 95_test_vectors.md -/

/-- `0000000` and V27's `0FFFFFF`. -/
theorem test_decode_nop : decodeTableWord 32 0x0000000 = some .nop ∧ decodeTableWord 32 0x0FFFFFF = some .nop := by
  decide
/-- P1's `1030005`, V6b's `1121234`. -/
theorem test_decode_fill : decodeTableWord 32 0x1030005 = some (.fill 0x03#8 0x00#8 0x05#8) ∧
    decodeTableWord 32 0x1121234 = some (.fill 0x12#8 0x12#8 0x34#8) := by decide
/-- `2000000` and V27's `2FFFFFF`. -/
theorem test_decode_emit : decodeTableWord 32 0x2000000 = some .emit ∧ decodeTableWord 32 0x2FFFFFF = some .emit := by
  decide
/-- `300007E` and V27's `3ABCD7E`. -/
theorem test_decode_feed : decodeTableWord 32 0x300007E = some (.feed 0x7E#8) ∧
    decodeTableWord 32 0x3ABCD7E = some (.feed 0x7E#8) := by decide
/-- `4000000` and V27's `4123456`. -/
theorem test_decode_rxreset : decodeTableWord 32 0x4000000 = some .rxreset ∧
    decodeTableWord 32 0x4123456 = some .rxreset := by decide
/-- V27's `5FFFFFE` and `5000003`. -/
theorem test_decode_setack : decodeTableWord 32 0x5FFFFFE = some (.setack false) ∧
    decodeTableWord 32 0x5000003 = some (.setack true) := by decide
/-- V26's `6000000` and `7ABCDEF`. -/
theorem test_decode_reserved : decodeTableWord 32 0x6000000 = some .rsv6 ∧
    decodeTableWord 32 0x7ABCDEF = some .rsv7 := by decide
/-- P1's `tx_frame`. -/
theorem test_decode_frame : decodeTableWord 80 0x7EFF0603010005FEF2EF =
    some (.frame 0x03#8 0x01#8 0x00#8 0x05#8 0xFE#8 0xF2#8) := by decide
/-- A frame with a wrong terminator, one with a wrong start marker, and a number too wide are no instructions (R70). -/
theorem test_decode_refuses : decode (.wire 0x7EFF0603010005FEF2EE#80) = .error .notAFrame ∧
    decode (.wire 0x7FFF0603010005FEF2EF#80) = .error .notAFrame ∧ decodeTableWord 32 0x8000000 = none := by
  decide
/-- The rows of a received byte, by `IDX` (opcode_table.json's `when`). -/
theorem test_decode_rxpos :
    decode (.rx 0 0x7E#8) = .ok (.rxpos0 0x7E#8) ∧ decode (.rx 1 0xFF#8) = .ok (.rxpos1 0xFF#8) ∧
    decode (.rx 2 0x06#8) = .ok (.rxpos2 0x06#8) ∧ decode (.rx 3 0x3D#8) = .ok (.rxpos3 0x3D#8) ∧
    decode (.rx 4 0x00#8) = .ok (.rxpos4 0x00#8) ∧ decode (.rx 5 0x12#8) = .ok (.rxpos5 0x12#8) ∧
    decode (.rx 6 0x05#8) = .ok (.rxpos6 0x05#8) ∧ decode (.rx 7 0xFE#8) = .ok (.rxpos7 0xFE#8) ∧
    decode (.rx 8 0xF2#8) = .ok (.rxpos8 0xF2#8) ∧ decode (.rx 9 0xEF#8) = .ok (.rxpos9 0xEF#8) ∧
    decode (.rx 10 0x7E#8) = .ok (.rxpos10 0x7E#8) ∧ decode (.rx 15 0x00#8) = .ok (.rxpos10 0x00#8) := by decide
/-- Encoding gives the words back (30_encoding.md R81, R70). -/
theorem test_encode : encode (.fill 0x06#8 0x00#8 0x1E#8) = .cmd 0x106001E#27 ∧
    encode (.feed 0xD7#8) = .cmd 0x30000D7#27 ∧ encode (.setack false) = .cmd 0x5000000#27 ∧
    encode (.frame 0x03#8 0x01#8 0x00#8 0x05#8 0xFE#8 0xF2#8) = .wire 0x7EFF0603010005FEF2EF#80 := by decide

/-! ## One step per instruction -/

/-- V25: at `IDX = 10` a `NOP` releases nothing. -/
theorem test_nop : rxOf (exec .nop (rxAt 10 0x0000#16)) = some (rxAt 10 0x0000#16).rx ∧
    answer (exec .nop (rxAt 10 0x0000#16)) = some ⟨false, false, none⟩ := by decide

/-- E1: `FILL 03, 00, 05`. -/
theorem test_fill_play5 : (stateOf (exec (.fill 0x03#8 0x00#8 0x05#8) State.reset)).map State.tx = some filled.tx := by
  decide
/-- V2: `FILL FF, FF, FF` has checksum `FBFD`. -/
theorem test_fill_largest : (stateOf (exec (.fill 0xFF#8 0xFF#8 0xFF#8) State.reset)).map (fun t => t.tx.buf) =
    some #v[0x7E#8, 0xFF#8, 0x06#8, 0xFF#8, 0x01#8, 0xFF#8, 0xFF#8, 0xFB#8, 0xFD#8, 0xEF#8] := by decide

/-- V4: refused from reset. -/
theorem test_emit_refused : stateOf (exec .emit State.reset) =
    some { State.reset with trace := [⟨false, true, none⟩] } := by decide
/-- E1: the ten bytes of `play(5)` go out and `TXVALID` stays 1. -/
theorem test_emit_play5 : stateOf (exec .emit filled) = some { filled with trace := [⟨false, false, some play5⟩] } := by
  decide

/-- R122: `IDX = 0`, `FEED 55`. -/
theorem test_feed_noise : rxOf (exec (.feed 0x55#8) State.reset) =
    some { RxRegs.reset with nbytes := 1, nerrs := 1 } := by decide
/-- R131: `ACC = FF0E`, `FEED F2`. -/
theorem test_feed_checksum_low : rxOf (exec (.feed 0xF2#8) (rxAt 8 0xFF0E#16)) =
    some { RxRegs.reset with idx := 9, acc := 0x0000#16, ckok := true, nbytes := 1 } := by decide

/-- V23: `IDX` 5 to 0, `ACC` 0138 to 0105, nothing counted. -/
theorem test_rxreset : rxOf (exec .rxreset (rxAt 5 0x0138#16)) = some RxRegs.reset := by decide

/-- V4c: `SETACK 0` after a `FILL` leaves the frame with its ack byte `01`. -/
theorem test_setack : (stateOf (exec (.setack false) filled)).map (fun t => (t.tx.ackreq, t.tx.buf)) =
    some (false, play5) := by decide

/-- V26. -/
theorem test_reserved : stateOf (exec .rsv6 (rxAt 10 0x0000#16)) =
      some { rxAt 10 0x0000#16 with trace := [⟨false, true, none⟩] } ∧
    stateOf (exec .rsv7 (rxAt 10 0x0000#16)) = some { rxAt 10 0x0000#16 with trace := [⟨false, true, none⟩] } := by
  decide

/-- E2: the "play finished" frame. -/
theorem test_frame_playFinished : rxOf (exec (.frame 0x3D#8 0x00#8 0x00#8 0x00#8 0xFE#8 0xBE#8) State.reset) =
    some { idx := 10, acc := 0x0000#16, rxop := 0x3D#8, rxack := 0x00#8, rxph := 0x00#8, rxpl := 0x00#8, ckok := true
           nbytes := 10, npkts := 1, nerrs := 0 } := by decide
/-- V20: checksum high byte `FF`; the accumulator wraps to `0100`, the frame completes invalid. -/
theorem test_frame_corrupt : rxOf (exec (.frame 0x03#8 0x01#8 0x00#8 0x05#8 0xFF#8 0xF2#8) State.reset) =
    some { idx := 10, acc := 0x0100#16, rxop := 0x03#8, rxack := 0x01#8, rxph := 0x00#8, rxpl := 0x05#8, ckok := false
           nbytes := 10, npkts := 1, nerrs := 0 } := by decide

/-- R122: `FEED 7E` at 0. -/
theorem test_rxpos0 : rxOf (exec (.rxpos0 0x7E#8) State.reset) = some { RxRegs.reset with idx := 1, nbytes := 1 } := by
  decide
/-- R123: `7E` at 1 resynchronises to 1 and counts. -/
theorem test_rxpos1 : rxOf (exec (.rxpos1 0x7E#8) (rxAt 1 0x0105#16)) =
    some { RxRegs.reset with idx := 1, nbytes := 1, nerrs := 1 } := by decide
/-- R124: `07` at 2 is a framing error, `06` advances. -/
theorem test_rxpos2 : rxOf (exec (.rxpos2 0x07#8) (rxAt 2 0x0105#16)) =
      some { RxRegs.reset with nbytes := 1, nerrs := 1 } ∧
    rxOf (exec (.rxpos2 0x06#8) (rxAt 2 0x0105#16)) = some { RxRegs.reset with idx := 3, nbytes := 1 } := by decide
/-- R126: `ACC = 0105`, `FEED 3D`. -/
theorem test_rxpos3 : rxOf (exec (.rxpos3 0x3D#8) (rxAt 3 0x0105#16)) =
    some { RxRegs.reset with idx := 4, acc := 0x0142#16, rxop := 0x3D#8, nbytes := 1 } := by decide
/-- V21: an ack byte `FF` after `0204` gives `0303`. -/
theorem test_rxpos4 : rxOf (exec (.rxpos4 0xFF#8) (rxAt 4 0x0204#16)) =
    some { RxRegs.reset with idx := 5, acc := 0x0303#16, rxack := 0xFF#8, nbytes := 1 } := by decide
/-- R128: `ACC = 0109`, `FEED 12`, unshifted. -/
theorem test_rxpos5 : rxOf (exec (.rxpos5 0x12#8) (rxAt 5 0x0109#16)) =
    some { RxRegs.reset with idx := 6, acc := 0x011B#16, rxph := 0x12#8, nbytes := 1 } := by decide
/-- R129: `ACC = 0109`, `FEED 05`. -/
theorem test_rxpos6 : rxOf (exec (.rxpos6 0x05#8) (rxAt 6 0x0109#16)) =
    some { RxRegs.reset with idx := 7, acc := 0x010E#16, rxpl := 0x05#8, nbytes := 1 } := by decide
/-- R130: `ACC = 010E`, `FEED FE`; and the wrap with `FF`. -/
theorem test_rxpos7 : rxOf (exec (.rxpos7 0xFE#8) (rxAt 7 0x010E#16)) =
      some { RxRegs.reset with idx := 8, acc := 0xFF0E#16, nbytes := 1 } ∧
    rxOf (exec (.rxpos7 0xFF#8) (rxAt 7 0x010E#16)) =
      some { RxRegs.reset with idx := 8, acc := 0x000E#16, nbytes := 1 } := by decide
/-- R131: `ACC = FF0E`, `FEED F1`. -/
theorem test_rxpos8 : rxOf (exec (.rxpos8 0xF1#8) (rxAt 8 0xFF0E#16)) =
    some { RxRegs.reset with idx := 9, acc := 0xFFFF#16, ckok := false, nbytes := 1 } := by decide
/-- R132: `EF` completes with `done`, V11: `7E` goes to 0, not to 1. -/
theorem test_rxpos9 : stateOf (exec (.rxpos9 0xEF#8) (rxAt 9 0x0000#16)) =
      some { rxAt 10 0x0000#16 with
        rx := { RxRegs.reset with idx := 10, acc := 0x0000#16, nbytes := 1, npkts := 1 }
        trace := [⟨true, false, none⟩] } ∧
    rxOf (exec (.rxpos9 0x7E#8) (rxAt 9 0x0000#16)) = some { RxRegs.reset with nbytes := 1, nerrs := 1 } := by decide
/-- R133: `IDX = 10`, `FEED 7E`; 11 to 15 alike. -/
theorem test_rxpos10 : rxOf (exec (.rxpos10 0x7E#8) (rxAt 10 0x0000#16)) = some { RxRegs.reset with nbytes := 1 } ∧
    rxOf (exec (.rxpos10 0x7E#8) (rxAt 15 0x0000#16)) = some { RxRegs.reset with nbytes := 1 } := by decide
/-- A row at another `IDX` is the row that `IDX` selects (log entry 6). -/
theorem test_rxpos_elsewhere : rxOf (exec (.rxpos9 0x7E#8) State.reset) =
    some { RxRegs.reset with idx := 1, nbytes := 1 } := by decide

/-! ## The step -/

/-- The first step after reset with `EMIT` placed runs it: refused (V4). -/
theorem test_step_fetches : stateOf (step (State.reset.withFetchWord 32 0x2000000)) =
    some { State.reset with trace := [⟨false, true, none⟩] } := by decide
/-- V28: `rst` wins over a `FILL` on the command port and clears everything. -/
theorem test_step_reset : stateOf (step { filled with pins := [.edge true true 0x1030005#27] }) =
    some { State.reset with trace := [⟨false, false, none⟩] } := by decide
/-- A placed byte runs the row of its position: `EF` at 9 (log entry 9). -/
theorem test_step_byte : answer (step (State.reset.withFetchWord 8 0xEF)) = some ⟨true, false, none⟩ := by decide

/-! ## The environment -/

/-- An environment with clock width 32 and made-up open parameters, for witnesses and tests only. -/
def cfg : EnvConfig 32 where
  tBootBusy := 3
  tBootOverdue := 5
  bootOrder := by decide
  tMediaBusy := 2
  tSettle := 1
  opMediaSelect := 0x09#8
  isNotification := fun op => op == 0x3A#8
  tNotifyExtend := 4
  notifyFrom := fun _ _ => 0
  reselects := fun last m => last != m
  overdueOther := fun _ t _ => t
  frameDisarms := fun _ => false
  overdueParam := fun _ _ => 0#16

/-- The driver at the start with bytes on its channel. -/
def driverWith (bs : List Byte) : Driver 32 := { Driver.init 32 with channel := bs }

/-- P5: one poll over a notification and the first two bytes of the next frame. -/
theorem test_poll_notification :
    (poll cfg 0 (driverWith [0x7E#8, 0xFF#8, 0x06#8, 0x3D#8, 0x00#8, 0x00#8, 0x00#8, 0xFE#8, 0xBE#8, 0xEF#8,
      0x7E#8, 0xFF#8])).calls = [⟨0x3D#8, 0x0000#16⟩] ∧
    (poll cfg 0 (driverWith [0x7E#8, 0xFF#8, 0x06#8, 0x3D#8, 0x00#8, 0x00#8, 0x00#8, 0xFE#8, 0xBE#8, 0xEF#8,
      0x7E#8, 0xFF#8])).block.rx =
      { idx := 2, acc := 0x0105#16, rxop := 0x3D#8, rxack := 0x00#8, rxph := 0x00#8, rxpl := 0x00#8, ckok := true
        nbytes := 12, npkts := 1, nerrs := 0 } := by decide

/-- E6: a send right after a reset command fails, and succeeds when the boot window is over. -/
theorem test_send_busy_after_reset :
    (send cfg 2 0x03#8 0x00#8 0x05#8 (send cfg 0 0x0C#8 0x00#8 0x00#8 (Driver.init 32)).1).2 = false ∧
    (send cfg 3 0x03#8 0x00#8 0x05#8 (send cfg 0 0x0C#8 0x00#8 0x00#8 (Driver.init 32)).1).2 = true := by decide

/-- R169: a notification (`3A`, by the made-up parameter) that arrives at 2 makes the link busy until 6, and does not
shorten a window that lasts longer. -/
theorem test_notification_extends :
    (extendBusy cfg 2 { Driver.init 32 with block := { rxAt 10 0x0000#16 with
      rx := { RxRegs.reset with rxop := 0x3A#8 } } }).busy = ⟨2, 4⟩ ∧
    (extendBusy cfg 2 { Driver.init 32 with busy := ⟨0, 9⟩, block := { rxAt 10 0x0000#16 with
      rx := { RxRegs.reset with rxop := 0x3A#8 } } }).busy = ⟨2, 7⟩ := by decide

/-- R176, R224: the first query sends the selection of its medium, and goes out itself when the caller retries after
the media window. -/
theorem test_first_query_selects :
    (query cfg 0 1#16 0x43#8 0x00#8 0x00#8 (Driver.init 32)).2 = false ∧
    txStream (query cfg 0 1#16 0x43#8 0x00#8 0x00#8 (Driver.init 32)).1.block =
      [0x7E#8, 0xFF#8, 0x06#8, 0x09#8, 0x01#8, 0x00#8, 0x01#8, 0xFE#8, 0xF0#8, 0xEF#8] ∧
    (query cfg 2 1#16 0x43#8 0x00#8 0x00#8 (query cfg 0 1#16 0x43#8 0x00#8 0x00#8 (Driver.init 32)).1).2 = true := by
  decide

/-! ## Witnesses: states and operands that meet the hypotheses of the statements, clause by clause -/

theorem witness_WireFrameDecodesByFixedBytes :
    (∃ f : Wire, f.extractLsb' 72 8 = 0x7E#8 ∧ f.extractLsb' 64 8 = 0xFF#8 ∧ f.extractLsb' 56 8 = 0x06#8 ∧
      f.extractLsb' 0 8 = 0xEF#8) ∧
    (∃ f : Wire, ¬ (f.extractLsb' 72 8 = 0x7E#8 ∧ f.extractLsb' 64 8 = 0xFF#8 ∧ f.extractLsb' 56 8 = 0x06#8 ∧
      f.extractLsb' 0 8 = 0xEF#8)) :=
  ⟨⟨0x7EFF0603010005FEF2EF#80, by decide⟩, ⟨0x7EFF0603010005FEF2EE#80, by decide⟩⟩

/-- V1 and V2 are the ends of the transmit range. -/
theorem witness_ChecksumRanges :
    ((0x00#8).toNat ≤ 1 ∧ checksum 0x00#8 0x00#8 0x00#8 0x00#8 = 0xFEFB#16) ∧
    ((0x01#8).toNat ≤ 1 ∧ checksum 0xFF#8 0x01#8 0xFF#8 0xFF#8 = 0xFBFD#16) := by decide

/-- R130 and R131's examples (positions 7 and 8), V6b (`FILL16 12, 1234`), P1's `tx_frame`, V4's refused `EMIT`. -/
theorem witness_BigEndianHalves :
    ((rxAt 7 0x010E#16).rx.idx = 7#4 ∧
      rxOf (runOps [.feed 0xFE#8, .feed 0xF2#8] (rxAt 7 0x010E#16)) =
        some { RxRegs.reset with idx := 9, acc := 0x0000#16, ckok := true, nbytes := 2 }) ∧
    (rxAt 5 0x0109#16).rx.idx = 5#4 ∧
    (∃ t, exec (fill16 0x12#8 0x1234#16) State.reset = .next t ∧ t.tx.buf[5] = 0x12#8 ∧ t.tx.buf[6] = 0x34#8 ∧
      t.tx.buf[7] = 0xFE#8 ∧ t.tx.buf[8] = 0xA2#8) ∧
    (∃ t, filled.tx.txvalid = true ∧ exec .emit filled = .next t ∧ txFrameOut t = some 0x7EFF0603010005FEF2EF#80) ∧
    (∃ t, ¬ (Instr.emit = .emit ∧ State.reset.tx.txvalid = true) ∧ exec .emit State.reset = .next t) :=
  ⟨⟨rfl, by decide⟩, rfl, ⟨_, rfl, by decide⟩, ⟨_, rfl, rfl, by decide⟩, _, by decide, rfl⟩

theorem witness_FilledFrameStaysUntilNextFill :
    (∃ t, exec (.fill 0x03#8 0x00#8 0x05#8) State.reset = .next t) ∧
    (∃ i : Instr, (∀ op hi lo, i ≠ .fill op hi lo) ∧ ∃ t, exec i filled = .next t) :=
  ⟨⟨_, rfl⟩, .emit, by simp, _, rfl⟩

theorem witness_EmitResult : filled.tx.txvalid = true ∧ State.reset.tx.txvalid = false := by decide

theorem witness_OnlyEmitWritesTxStream :
    (∃ t, exec .emit filled = .next t ∧ filled.tx.txvalid = true ∧ txStream t = play5.toList) ∧
    (∃ t, exec .emit State.reset = .next t ∧ State.reset.tx.txvalid = false) :=
  ⟨⟨_, rfl, by decide⟩, _, rfl, rfl⟩

/-- V4c: a `SETACK` stands between. -/
theorem witness_EmitSendsMostRecentFill :
    ∀ i ∈ [Instr.setack false, .feed 0x7E#8, .emit], ∀ o h l, i ≠ .fill o h l := by simp

/-- Every position has a state, and every clause a byte. -/
theorem witness_FeedTransitionTable :
    (∀ k : BitVec 4, ∃ s : State, s.rx.idx = k) ∧ (∃ b : Byte, b = 0x7E#8) ∧ (∃ b : Byte, b ≠ 0x7E#8) ∧
    (∃ b : Byte, b ≠ 0xFF#8 ∧ b ≠ 0x7E#8) ∧ (∃ b : Byte, b ≠ 0x06#8 ∧ b ≠ 0x7E#8) ∧ (∃ b : Byte, b ≠ 0xEF#8) ∧
    10#4 ≤ (rxAt 10#4 0x0000#16).rx.idx ∧ 10#4 ≤ (rxAt 15#4 0x0000#16).rx.idx :=
  ⟨fun k => ⟨rxAt k 0x0105#16, rfl⟩, ⟨_, rfl⟩, ⟨0xEF#8, by decide⟩, ⟨0x06#8, by decide⟩, ⟨0xFF#8, by decide⟩,
    ⟨0x7E#8, by decide⟩, by decide, by decide⟩

theorem witness_VerifyPositionRows : (rxAt 0 0x0105#16).rx.idx = 0#4 ∧ (rxAt 1 0x0105#16).rx.idx = 1#4 ∧
    (rxAt 2 0x0105#16).rx.idx = 2#4 := by decide

theorem witness_AcceptPositionRows : (rxAt 3 0x0105#16).rx.idx = 3#4 ∧ (rxAt 4 0x0142#16).rx.idx = 4#4 ∧
    (rxAt 5 0x0109#16).rx.idx = 5#4 ∧ (rxAt 6 0x0109#16).rx.idx = 6#4 := by decide

theorem witness_ChecksumPositionRows : (rxAt 7 0x010E#16).rx.idx = 7#4 ∧ (rxAt 8 0xFF0E#16).rx.idx = 8#4 := by decide

theorem witness_TerminatorPositionRow : (rxAt 9 0x0000#16).rx.idx = 9#4 := by decide

theorem witness_DefensiveResetRow : 10#4 ≤ (rxAt 10 0x0000#16).rx.idx ∧ 10#4 ≤ (rxAt 15 0x0000#16).rx.idx := by decide

theorem witness_FieldRegistersWrittenAtTheirPositions :
    (∃ t, exec (.feed 0x3D#8) (rxAt 3 0x0105#16) = .next t ∧ t.rx.rxop = 0x3D#8) ∧
    (∃ t, fedBytes .rxreset = [] ∧ exec .rxreset (rxAt 10 0x0000#16) = .next t) :=
  ⟨⟨_, rfl, by decide⟩, _, rfl, rfl⟩

theorem witness_CountersMoveByTheirRules :
    (∃ t, exec (.feed 0xEF#8) (rxAt 9 0x0000#16) = .next t ∧ t.rx.npkts = 1) ∧
    (∃ t, fedBytes .nop = [] ∧ exec .nop State.reset = .next t) ∧
    (∃ s t : State, s.pins = [.edge true false 0] ∧ step s = .next t) :=
  ⟨⟨_, rfl, by decide⟩, ⟨_, rfl, rfl⟩, { filled with pins := [.edge true false 0] }, _, rfl, rfl⟩

/-- The reset state with the cursor at `k` and `NERRS` at its last value. -/
def errsFull (k : BitVec 4) : State :=
  { State.reset with rx := { RxRegs.reset with idx := k, nerrs := 0xFFFFFFFF#32 } }

/-- V29: the counts at their last value. -/
theorem witness_CountersWrapSilently :
    (∃ s t u : State, s.rx.nbytes = 0xFFFFFFFF#32 ∧ exec (.feed 0x55#8) s = .next t ∧
      exec (.feed 0x55#8) { s with rx := { s.rx with nbytes := 7 } } = .next u) ∧
    (∃ s : State, s.rx.npkts = 0xFFFFFFFF#32 ∧ s.rx.idx = 9#4) ∧
    (∀ k ∈ [0#4, 1#4, 2#4, 9#4], ∃ (s : State) (e : Event), s.rx.nerrs = 0xFFFFFFFF#32 ∧ s.rx.idx = k ∧
      byteEvent 0x55#8 s.rx = some e ∧ e.isFraming = true) :=
  ⟨⟨{ State.reset with rx := { RxRegs.reset with nbytes := 0xFFFFFFFF#32 } }, _, _, rfl, rfl, rfl⟩,
    ⟨{ State.reset with rx := { RxRegs.reset with npkts := 0xFFFFFFFF#32, idx := 9 } }, by decide⟩,
    fun k hk => by
      simp only [List.mem_cons, List.not_mem_nil, or_false] at hk
      rcases hk with rfl | rfl | rfl | rfl
      exacts [⟨errsFull 0, .fe0, by decide⟩, ⟨errsFull 1, .fe1, by decide⟩, ⟨errsFull 2, .fe2, by decide⟩,
        ⟨errsFull 9, .fe9, by decide⟩]⟩

theorem witness_IdxNeverWraps :
    (∃ t, exec (.feed 0x7E#8) (rxAt 15 0x0000#16) = .next t ∧ 10#4 ≤ (rxAt 15 0x0000#16).rx.idx) ∧
    (∃ t, exec (.feed 0x7E#8) (rxAt 9 0x0000#16) = .next t ∧ (rxAt 9 0x0000#16).rx.idx ≤ 9#4) ∧
    (∃ t, fedBytes .emit = [] ∧ Instr.emit ≠ .rxreset ∧ exec .emit (rxAt 10 0x0000#16) = .next t) :=
  ⟨⟨_, rfl, by decide⟩, ⟨_, rfl, by decide⟩, _, rfl, by decide, rfl⟩

theorem witness_FramingErrorEffect :
    byteEvent 0x55#8 (rxAt 0 0x0105#16).rx = some .fe0 ∧ byteEvent 0x7E#8 (rxAt 1 0x0105#16).rx = some .fe1 ∧
    byteEvent 0x07#8 (rxAt 2 0x0105#16).rx = some .fe2 ∧ byteEvent 0xEE#8 (rxAt 9 0x0000#16).rx = some .fe9 ∧
    (∀ e ∈ [Event.fe0, .fe1, .fe2, .fe9], e.isFraming = true) := by decide

theorem witness_ErrorCountFollowsEvents :
    ∃ t, exec (.frame 0x03#8 0x01#8 0x00#8 0x05#8 0xFE#8 0xF2#8) (rxAt 2 0x0105#16) = .next t ∧ t.rx.nerrs = 1 :=
  ⟨_, rfl, by decide⟩

/-- R131's example: `F1` after `ACC = FF0E` mismatches, `F2` does not. -/
theorem witness_ChecksumMismatchIsAFlag :
    (rxAt 8 0xFF0E#16).rx.idx = 8#4 ∧ (rxAt 8 0xFF0E#16).rx.acc + (0xF1#8).setWidth 16 ≠ 0#16 ∧
    (rxAt 8 0xFF0E#16).rx.acc + (0xF2#8).setWidth 16 = 0#16 := by decide

/-- V16's lost byte at `IDX = 10`; a frame released before the next byte, and one that is not. -/
theorem witness_DefensiveResetOnlyByRuleBreak :
    (∃ t, fedBytes (.feed 0x7E#8) = [0x7E#8] ∧ exec (.feed 0x7E#8) (rxAt 10 0x0000#16) = .next t ∧
      obeysReset (.feed 0x7E#8) (rxAt 10 0x0000#16) = false) ∧
    (∃ t, exec (.rxpos9 0x7E#8) (rxAt 9 0x0000#16) = .next t ∧ obeysReset (.rxpos9 0x7E#8) (rxAt 9 0x0000#16) = true) ∧
    (rxAt 9 0x0000#16).rx.idx ≤ 9#4 ∧
    (∀ run ∈ [obeysRun, releasesRun false],
      run [.feed 0xEF#8, .nop, .rxreset, .feed 0x7E#8] (rxAt 9 0x0000#16) = true ∧
      run [.feed 0xEF#8, .nop, .feed 0x7E#8] (rxAt 9 0x0000#16) = false) :=
  ⟨⟨_, rfl, rfl, by decide⟩, ⟨_, rfl, by decide⟩, by decide, by decide⟩

theorem witness_FrameReceivedWhole : State.reset.rx.idx = 0#4 ∧ State.reset.rx.acc = 0x0105#16 := by decide

theorem witness_EncodeReceiveRoundTrip :
    ((rxAt 0 0x0105#16).rx.idx ≤ 2#4 ∧ (rxAt 2 0x0105#16).rx.idx ≤ 2#4 ∧ (rxAt 2 0x0105#16).rx.acc = 0x0105#16) ∧
    (3#4 ≤ (3#4 : BitVec 4) ∧ (3#4 : BitVec 4) ≤ 10#4 ∧ 3#4 ≤ (10#4 : BitVec 4)) := by decide

/-- V18 (position 0) and V9 (position 6). -/
theorem witness_SingleByteCorruptionDetected :
    completeFrame play5 = true ∧ 0x7F#8 ≠ play5[(0 : Fin 10)] ∧ 0x06#8 ≠ play5[(6 : Fin 10)] ∧
    0xEE#8 ≠ play5[(9 : Fin 10)] ∧ State.reset.rx.idx = 0#4 ∧ State.reset.rx.acc = 0x0105#16 := by decide

/-- V12 and V22: six garbage bytes, a seventh that is or is not `EF`, and a rest that holds no preamble. -/
theorem witness_ResyncAfterSevenGarbageBytes :
    [0x11#8, 0x22#8, 0x33#8, 0x44#8, 0x55#8, 0x66#8].length = 6 ∧ ¬ [0x7E#8, 0xFF#8, 0x06#8] <:+: ([] : List Byte) ∧
    ¬ [0x7E#8, 0xFF#8, 0x06#8] <:+: [0x7E#8, 0xFF#8] ∧ completeFrame play5 = true ∧
    State.reset.rx.idx = 0#4 ∧ State.reset.rx.acc = 0x0105#16 ∧ 0x77#8 ≠ 0xEF#8 := by decide

/-- V13 (two bytes), none, and six. -/
theorem witness_TruncatedFrameSwallowsNext :
    ([] : List Byte).length ≤ 6 ∧ [0x11#8, 0x22#8].length ≤ 6 ∧
    [0x11#8, 0x22#8, 0x33#8, 0x44#8, 0x55#8, 0x66#8].length ≤ 6 ∧ completeFrame play5 = true ∧
    (rxAt 3 0x0105#16).rx.idx = 3#4 := by decide

/-- V15 and V24. -/
theorem witness_NoiseWhileHuntingCountsErrors :
    State.reset.rx.idx = 0#4 ∧ State.reset.rx.acc = 0x0105#16 ∧ (∀ b ∈ [0x00#8, 0x55#8, 0xEF#8], b ≠ 0x7E#8) ∧
    (1 ≤ 1 ∧ 1 ≤ 3) := by decide

theorem witness_CompleteMeansLastTenBytesWereAFrame :
    (∃ t, runOps (feeds play5.toList) State.reset = .next t ∧ t.rx.idx = 10#4) ∧
    (∃ t, runOps (feeds [0x7E#8, 0xFF#8, 0x06#8]) State.reset = .next t ∧ t.rx.idx = 3#4) :=
  ⟨⟨_, rfl, by decide⟩, _, rfl, by decide⟩

theorem witness_CountersCountWhatTheySay :
    ((feeds play5.toList).flatMap fedBytes).length < 2 ^ 32 ∧
      ∃ t, runOps (feeds play5.toList) State.reset = .next t ∧ t.rx.npkts = 1 :=
  ⟨by decide, _, rfl, by decide⟩

theorem witness_NopAndReservedResults :
    (∃ s : State, s.pins = .edge false false 0x1030005#27 :: []) ∧ 6#3 ≤ (6#3 : BitVec 3) ∧ 6#3 ≤ (7#3 : BitVec 3) :=
  ⟨⟨{ filled with pins := .edge false false 0x1030005#27 :: [] }, rfl⟩, by decide⟩

theorem witness_ExactlyTwoThingsRefused :
    (∃ t, exec .emit State.reset = .next t ∧ State.reset.tx.txvalid = false) ∧ (∃ t, exec .rsv6 filled = .next t) ∧
    (∃ t, exec .rsv7 filled = .next t) ∧ (∃ t, exec .emit filled = .next t ∧ filled.tx.txvalid = true) :=
  ⟨⟨_, rfl, rfl⟩, ⟨_, rfl⟩, ⟨_, rfl⟩, _, rfl, rfl⟩

theorem witness_NothingIsFatal : ∃ t, exec .rxreset (rxAt 15 0x0000#16) = .next t ∧ t.rx.idx = 0#4 :=
  ⟨_, rfl, by decide⟩

theorem witness_ResponsesByOperation :
    (∃ t, exec (.feed 0xEF#8) (rxAt 9 0x0000#16) = .next t ∧ lastResponse t = ⟨true, false, none⟩) ∧
    (∃ t, exec .rsv6 State.reset = .next t ∧ lastResponse t = ⟨false, true, none⟩) ∧
    (∃ t, exec .emit filled = .next t ∧ lastResponse t = ⟨false, false, some play5⟩) :=
  ⟨⟨_, rfl, by decide⟩, ⟨_, rfl, by decide⟩, _, rfl, by decide⟩

theorem witness_TransmitOperationsFrame :
    (∃ t, exec .nop filled = .next t) ∧ (∃ t, exec .emit filled = .next t) ∧ (∃ t, exec .rsv6 filled = .next t) ∧
    (∃ t, exec .rsv7 filled = .next t) ∧ (∃ t, exec (.setack false) filled = .next t) ∧
    (∃ t, exec (.fill 0xFF#8 0xFF#8 0xFF#8) filled = .next t) :=
  ⟨⟨_, rfl⟩, ⟨_, rfl⟩, ⟨_, rfl⟩, ⟨_, rfl⟩, ⟨_, rfl⟩, _, rfl⟩

theorem witness_ReceiveOperationsFrame :
    (∃ t, exec .rxreset filled = .next t) ∧ (∃ t, exec (.rxpos9 0xEF#8) (rxAt 9 0x0000#16) = .next t) ∧
    fedBytes (.rxpos9 0xEF#8) ≠ [] :=
  ⟨⟨_, rfl⟩, ⟨_, rfl⟩, by decide⟩

/-- Two states with the same receive side and different transmit sides, and the other way round. -/
theorem witness_SidesAreIndependent :
    (∃ t₁ t₂, exec (.feed 0x7E#8) State.reset = .next t₁ ∧ exec (.feed 0x7E#8) filled = .next t₂ ∧
      State.reset.rx = filled.rx ∧ State.reset.tx ≠ filled.tx) ∧
    (∃ t₁ t₂, exec .emit State.reset = .next t₁ ∧ exec .emit (rxAt 3 0x0105#16) = .next t₂ ∧
      State.reset.tx = (rxAt 3 0x0105#16).tx ∧ State.reset.rx ≠ (rxAt 3 0x0105#16).rx) :=
  ⟨⟨_, _, rfl, rfl, rfl, by decide⟩, _, _, rfl, rfl, rfl, by decide⟩

/-- Two reset states that differ in an unspecified byte of `TXBUF`. -/
theorem witness_UnfilledBufferIsUnobservable :
    ∃ s₁ s₂ t₁ t₂ : State, s₁ ≠ s₂ ∧ s₁.rx = s₂.rx ∧ s₁.trace = s₂.trace ∧ s₁.tx.ackreq = s₂.tx.ackreq ∧
      s₁.tx.txvalid = false ∧ s₂.tx.txvalid = false ∧ runOps [.emit, .feed 0x7E#8] s₁ = .next t₁ ∧
      runOps [.emit, .feed 0x7E#8] s₂ = .next t₂ :=
  ⟨State.reset, { State.reset with tx := { TxRegs.reset with op := 0xAA#8 } }, _, _, by decide, rfl, rfl, rfl, rfl,
    rfl, rfl, rfl⟩

theorem witness_ResetWinsOverCommand :
    ∃ s : State, s.pins = .edge true true 0x1030005#27 :: [.edge true false 0, .rxByte 0x7E#8] :=
  ⟨{ filled with pins := .edge true true 0x1030005#27 :: [.edge true false 0, .rxByte 0x7E#8] }, rfl⟩

theorem witness_StepRunsDecodedInstruction :
    decode (.cmd 0x2000000#27) = .ok .emit ∧ decode (.rx 9 0xEF#8) = .ok (.rxpos9 0xEF#8) ∧
    decode (.wire 0x7EFF0603010005FEF2EF#80) = .ok (.frame 0x03#8 0x01#8 0x00#8 0x05#8 0xFE#8 0xF2#8) ∧
    decode (.wire 0x7EFF0603010005FEF2EE#80) = .error .notAFrame ∧
    (∀ p ∈ [Input.edge false true 0x2000000#27, .rxByte 0xEF#8, .wire 0x7EFF0603010005FEF2EF#80,
      .wire 0x7EFF0603010005FEF2EE#80, .edge false false 0x2000000#27],
      ({ rxAt 9 0x0000#16 with pins := [p] }).pins = p :: []) ∧
    State.reset.pins = [] := by decide

theorem witness_FetchedWordRuns :
    decodeTableWord 32 0x2000000 = some .emit ∧ decodeTableWord 8 0xEF = some (.rxpos9 0xEF#8) ∧
    decodeTableWord 80 0x7EFF0603010005FEF2EF = some (.frame 0x03#8 0x01#8 0x00#8 0x05#8 0xFE#8 0xF2#8) := by decide

theorem witness_StepKeepsInvariant :
    (Inv filled ∧ ∃ t, step { filled with pins := [.rxByte 0x7E#8] } = .next t) ∧
    (Inv (rxAt 10 0x0000#16) ∧ ∃ t, exec (.feed 0x7E#8) (rxAt 10 0x0000#16) = .next t) :=
  ⟨⟨by decide, _, rfl⟩, by decide, _, rfl⟩

/-- E6: busy at 2, no longer at 3. -/
theorem witness_SendGate :
    let d := (send cfg 0 0x0C#8 0x00#8 0x00#8 (Driver.init 32)).1
    ((2#32 - d.busy.tSet).toNat < d.busy.window) ∧ ¬ ((3#32 - d.busy.tSet).toNat < d.busy.window) := by decide

theorem witness_SendArmsWindows :
    ¬ (0#32 - (Driver.init 32).busy.tSet).toNat < (Driver.init 32).busy.window ∧
    0x0C#8 = 0x0C#8 ∧ (0x09#8 ≠ 0x0C#8 ∧ 0x09#8 = cfg.opMediaSelect) ∧
    (0x03#8 ≠ 0x0C#8 ∧ 0x03#8 ≠ cfg.opMediaSelect ∧ (Driver.init 32).block.tx.ackreq = true) ∧
    ({ Driver.init 32 with block := { filled with tx := { filled.tx with ackreq := false } } }).block.tx.ackreq = false := by
  decide

/-- E6 and E7: busy before the boot window is over, overdue at and after its own. -/
theorem witness_ResetCommandBusyThenOverdue :
    ¬ (0#32 - (Driver.init 32).busy.tSet).toNat < (Driver.init 32).busy.window ∧
    (2#32 - 0#32).toNat < cfg.tBootBusy ∧ cfg.tBootBusy ≤ (3#32 - 0#32).toNat ∧ (Driver.init 32).channel = [] ∧
    cfg.tBootOverdue ≤ (5#32 - 0#32).toNat := by decide

/-- A valid frame and one with a wrong checksum on the channel. -/
theorem witness_PollForwardsValidFramesOnly :
    (driverWith play5.toList).channel = (frameBytes 0x03#8 0x01#8 0x00#8 0x05#8 0xFE#8 0xF2#8).toList ∧
    (driverWith play5.toList).block.rx.idx = 0#4 ∧ (driverWith play5.toList).block.rx.acc = 0x0105#16 ∧
    (driverWith play5.toList).overdue = none ∧
    wellFormedFrame (frameBytes 0x03#8 0x01#8 0x00#8 0x05#8 0xFE#8 0xF2#8) = true ∧
    wellFormedFrame (frameBytes 0x03#8 0x01#8 0x00#8 0x05#8 0xFE#8 0xF1#8) = false := by decide

theorem witness_PollNeverLosesAByte :
    (driverWith play5.toList).block.rx.idx ≤ 9#4 ∧
    ({ driverWith play5.toList with block := rxAt 9 0x0000#16 }).block.rx.idx ≤ 9#4 := by decide

end Sys2Proof.Tests
end

section
/-! What each rule and each operation does to the three counters of 10_state.md R29 to R31, and what an operation that
feeds no byte leaves of the receive side. -/

namespace Sys2Proof.Machine

/-! ### The verify positions and the terminator -/

@[simp] theorem verify_nbytes (expected b : Byte) (r : RxRegs) : (verify expected b r).nbytes = r.nbytes := by
  rcases verify_cases expected b r with ⟨_, e⟩ | ⟨_, _, e⟩ | ⟨_, _, e⟩ <;> simp [e]

@[simp] theorem verify_npkts (expected b : Byte) (r : RxRegs) : (verify expected b r).npkts = r.npkts := by
  rcases verify_cases expected b r with ⟨_, e⟩ | ⟨_, _, e⟩ | ⟨_, _, e⟩ <;> simp [e]

/-- A verify position counts an error exactly on a mismatch, resynchronising or not (R125). -/
@[simp] theorem verify_nerrs (expected b : Byte) (r : RxRegs) :
    (verify expected b r).nerrs = if b = expected then r.nerrs else r.nerrs + 1#32 := by
  rcases verify_cases expected b r with ⟨hb, e⟩ | ⟨hb, _, e⟩ | ⟨hb, _, e⟩ <;> rw [e] <;> simp [hb]

@[simp] theorem posTerminator_nbytes (b : Byte) (r : RxRegs) : (posTerminator b r).1.nbytes = r.nbytes := by
  rcases posTerminator_cases b r with ⟨_, e⟩ | ⟨_, e⟩ <;> simp [e]

@[simp] theorem posTerminator_npkts (b : Byte) (r : RxRegs) :
    (posTerminator b r).1.npkts = if b = Config.END then r.npkts + 1#32 else r.npkts := by
  rcases posTerminator_cases b r with ⟨hb, e⟩ | ⟨hb, e⟩ <;> rw [e] <;> simp [hb]

@[simp] theorem posTerminator_nerrs (b : Byte) (r : RxRegs) :
    (posTerminator b r).1.nerrs = if b = Config.END then r.nerrs else r.nerrs + 1#32 := by
  rcases posTerminator_cases b r with ⟨hb, e⟩ | ⟨hb, e⟩ <;> rw [e] <;> simp [hb]

/-! ### The rule at any position -/

/-- Outside the sequence `IDX` is at none of the positions that have a fixed byte (R133). -/
theorem ne_fixedPosition_of_outside {idx : BitVec 4} (h : 10#4 ≤ idx) :
    idx ≠ 0#4 ∧ idx ≠ 1#4 ∧ idx ≠ 2#4 ∧ idx ≠ 9#4 := by
  refine ⟨?_, ?_, ?_, ?_⟩ <;> rintro rfl <;> exact absurd h (by decide)

/-- The three kinds of position: a verify position with its fixed byte (R122 to R125), the terminator (R132), and the
others, which have no fixed byte and touch no counter (R126 to R131, R133). -/
theorem positionRule_kinds (idx : BitVec 4) :
    (∃ expected, ((idx = 0#4 ∧ expected = Config.START) ∨ (idx = 1#4 ∧ expected = Config.VER) ∨
        (idx = 2#4 ∧ expected = Config.LEN)) ∧ ∀ b r, positionRule idx b r = (verify expected b r, false)) ∨
    (idx = 9#4 ∧ positionRule idx = posTerminator) ∨
    ((idx ≠ 0#4 ∧ idx ≠ 1#4 ∧ idx ≠ 2#4 ∧ idx ≠ 9#4) ∧ ∀ b r, (positionRule idx b r).1.nbytes = r.nbytes ∧
      (positionRule idx b r).1.npkts = r.npkts ∧ (positionRule idx b r).1.nerrs = r.nerrs) := by
  rcases positionRule_cases idx with
    ⟨rfl, -⟩ | ⟨rfl, -⟩ | ⟨rfl, -⟩ | ⟨rfl, -⟩ | ⟨rfl, -⟩ | ⟨rfl, -⟩ | ⟨rfl, -⟩ | ⟨rfl, -⟩ | ⟨rfl, -⟩ | ⟨rfl, e⟩ |
    ⟨out, e⟩
  · exact .inl ⟨_, .inl ⟨rfl, rfl⟩, fun _ _ => rfl⟩
  · exact .inl ⟨_, .inr (.inl ⟨rfl, rfl⟩), fun _ _ => rfl⟩
  · exact .inl ⟨_, .inr (.inr ⟨rfl, rfl⟩), fun _ _ => rfl⟩
  iterate 6 exact .inr (.inr ⟨by decide, fun _ _ => ⟨rfl, rfl, rfl⟩⟩)
  · exact .inr (.inl ⟨rfl, e⟩)
  · exact .inr (.inr ⟨ne_fixedPosition_of_outside out, fun _ _ => by rw [e]; exact ⟨rfl, rfl, rfl⟩⟩)

/-- No position rule touches `NBYTES`: the byte was counted before it ran (R29, R120). -/
theorem positionRule_nbytes (idx : BitVec 4) (b : Byte) (r : RxRegs) :
    (positionRule idx b r).1.nbytes = r.nbytes := by
  rcases positionRule_kinds idx with ⟨expected, -, e⟩ | ⟨-, e⟩ | ⟨-, keeps⟩
  · simp [e]
  · simp [e]
  · exact (keeps b r).1

/-- `NPKTS` moves at the terminator's match only (R30). -/
theorem positionRule_npkts (idx : BitVec 4) (b : Byte) (r : RxRegs) :
    (positionRule idx b r).1.npkts = if idx = 9#4 ∧ b = Config.END then r.npkts + 1#32 else r.npkts := by
  rcases positionRule_kinds idx with ⟨expected, pos, e⟩ | ⟨rfl, e⟩ | ⟨⟨-, -, -, ne⟩, keeps⟩
  · rcases pos with ⟨rfl, -⟩ | ⟨rfl, -⟩ | ⟨rfl, -⟩ <;> simp [e]
  · simp [e]
  · simp [ne, keeps]

/-- `NERRS` moves on a byte that fails a verify position or the terminator position, and on no other (R31). -/
theorem positionRule_nerrs (idx : BitVec 4) (b : Byte) (r : RxRegs) :
    (positionRule idx b r).1.nerrs =
      if (idx = 0#4 ∧ b ≠ Config.START) ∨ (idx = 1#4 ∧ b ≠ Config.VER) ∨ (idx = 2#4 ∧ b ≠ Config.LEN) ∨
          (idx = 9#4 ∧ b ≠ Config.END)
      then r.nerrs + 1#32 else r.nerrs := by
  rcases positionRule_kinds idx with ⟨expected, pos, e⟩ | ⟨rfl, e⟩ | ⟨⟨ne0, ne1, ne2, ne9⟩, keeps⟩
  · rcases pos with ⟨rfl, rfl⟩ | ⟨rfl, rfl⟩ | ⟨rfl, rfl⟩ <;> simp [e]
  · simp [e]
  · simp [ne0, ne1, ne2, ne9, keeps]

/-! ### Operations that feed no byte, and the hardware reset -/

/-- An operation that feeds no byte leaves the receive side alone, or is `RXRESET` and resets the cursor
(R136, R155). -/
theorem exec_noByte_rx {i : Instr} {s t : State} (noByte : fedBytes i = []) (h : exec i s = .next t) :
    t.rx = s.rx ∨ (i = .rxreset ∧ t.rx = cursorReset s.rx) := by
  rcases exec_cases h with
    ⟨bytes, -⟩ | ⟨op, hi, lo, -, rfl⟩ | ⟨v, -, rfl⟩ | ⟨-, -, rfl⟩ | ⟨-, rfl⟩ | ⟨rfl, rfl⟩ | ⟨-, rfl⟩
  · exact absurd noByte bytes
  iterate 4 exact .inl rfl
  · exact .inr ⟨rfl, rfl⟩
  · exact .inl rfl

/-- A step whose input is an edge with `rst` high is a hardware reset (R152, R222). -/
theorem step_resetEdge {s : State} {v : Bool} {w : Cmd} {rest : List Input} (h : s.pins = .edge true v w :: rest) :
    step s = .next (hardReset { s with pins := rest }) :=
  step_cons h

/-- Settles O24: `NBYTES` is counted before the position's rule runs, and `NPKTS` and `NERRS` follow the rule that
`IDX` selects. -/
theorem countersMoveByTheirRules : Obligations.CountersMoveByTheirRules := by
  refine ⟨fun b s t h => ?_, fun i s t noByte h => ?_, fun v w rest s t pins h => ?_⟩
  · rw [exec_feed] at h
    cases h
    exact ⟨positionRule_nbytes _ _ _, positionRule_npkts _ _ _, positionRule_nerrs _ _ _⟩
  · rcases exec_noByte_rx noByte h with e | ⟨-, e⟩ <;> simp [e]
  · rw [step_resetEdge pins] at h
    cases h
    exact ⟨rfl, rfl, rfl⟩

/-- Settles O49: the reset values of R35, read off `RxRegs.reset`, `TxRegs.reset` and the hard-wired bytes of
`TxRegs.buf`. -/
theorem resetValues : Obligations.ResetValues :=
  ⟨rfl, rfl, rfl, rfl, rfl, rfl, rfl⟩

end Sys2Proof.Machine
end

section
/-! The transmit stream of 20_memory.md R56 and the port outputs of 10_state.md R37 after each operation, and the byte
order of the two 16-bit quantities of a frame (20_memory.md R51, R53). -/

namespace Sys2Proof.Machine

/-! ### The TX stream and the port outputs after one response -/

/-- A response without a frame leaves the TX stream alone (R56). -/
theorem txStream_respond_of_tx_none {r : Response} (silent : r.tx = none) (s : State) :
    txStream (respond r s) = txStream s := by
  simp [txStream, silent]

@[simp] theorem txStream_txWrite (f : Frame) (s : State) : txStream (txWrite f s) = txStream s ++ f.toList := by
  simp [txStream, Response.emitted]

@[simp] theorem txValidOut_respond (r : Response) (s : State) : txValidOut (respond r s) = r.tx.isSome := by
  rw [txValidOut, lastResponse_respond]

@[simp] theorem txValidOut_txWrite (f : Frame) (s : State) : txValidOut (txWrite f s) = true :=
  txValidOut_respond (Response.emitted f) s

@[simp] theorem txFrameOut_txWrite (f : Frame) (s : State) : txFrameOut (txWrite f s) = some (packFrame f) := by
  rw [txWrite, txFrameOut, lastResponse_respond]
  rfl

/-! ### Operations that emit nothing -/

/-- `t` is `s` after an operation that emits nothing: `t`'s last response carries no frame, and what came before it
left the TX stream as it was in `s`. -/
def Silent (s t : State) : Prop := ∃ u r, t = respond r u ∧ r.tx = none ∧ txStream u = txStream s

theorem Silent.txStream_eq {s t : State} (h : Silent s t) : txStream t = txStream s := by
  obtain ⟨u, r, rfl, silent, kept⟩ := h
  rw [txStream_respond_of_tx_none silent, kept]

theorem Silent.txValidOut_eq {s t : State} (h : Silent s t) : txValidOut t = false := by
  obtain ⟨u, r, rfl, silent, -⟩ := h
  simp [silent]

theorem silent_feedByte (b : Byte) (s : State) : Silent s (feedByte b s) :=
  ⟨{ s with rx := (positionRule s.rx.idx b (countByte s.rx)).1 }, _, rfl, rfl, rfl⟩

theorem txStream_feedBytes (bs : List Byte) (s : State) : txStream (feedBytes bs s) = txStream s := by
  induction bs generalizing s with
  | nil => rfl
  | cons b bs ih => rw [feedBytes_cons, ih, (silent_feedByte b s).txStream_eq]

/-- Received bytes, at least one of them, emit nothing (R56, R61). -/
theorem silent_feedBytes {bs : List Byte} (nonempty : bs ≠ []) (s : State) : Silent s (feedBytes bs s) := by
  obtain rfl | ⟨init, last, rfl⟩ := bs.eq_nil_or_concat'
  · exact absurd rfl nonempty
  · rw [feedBytes_append]
    obtain ⟨u, r, e, silent, kept⟩ := silent_feedByte last (feedBytes init s)
    exact ⟨u, r, e, silent, kept.trans (txStream_feedBytes init s)⟩

/-- Every operation but a performed `EMIT` emits nothing (R56). -/
theorem exec_silent {i : Instr} {s t : State} (notEmit : ¬ (i = .emit ∧ s.tx.txvalid = true))
    (h : exec i s = .next t) : Silent s t := by
  rcases exec_cases h with
    ⟨bytes, rfl⟩ | ⟨op, hi, lo, -, rfl⟩ | ⟨v, -, rfl⟩ | ⟨emit, valid, -⟩ | ⟨-, rfl⟩ | ⟨-, rfl⟩ | ⟨-, rfl⟩
  case inl => exact silent_feedBytes bytes s
  case inr.inr.inr.inl => exact absurd ⟨emit, valid⟩ notEmit
  all_goals exact ⟨_, _, rfl, rfl, rfl⟩

/-- Settles O12: a performed `EMIT` is a `txWrite` of the buffer, and every other operation is silent. -/
theorem onlyEmitWritesTxStream : Obligations.OnlyEmitWritesTxStream := by
  refine fun i s t h => ⟨?_, fun notEmit => (exec_silent notEmit h).txStream_eq⟩
  rintro ⟨rfl, valid⟩
  rw [exec_emit_performed valid] at h
  cases h
  exact txStream_txWrite _ s

/-! ### Big-endian pairs of bytes -/

@[simp] theorem highByte_joinBytes (hi lo : Byte) : highByte (joinBytes hi lo) = hi :=
  BitVec.extractLsb'_append_eq_left

@[simp] theorem lowByte_joinBytes (hi lo : Byte) : lowByte (joinBytes hi lo) = lo :=
  BitVec.extractLsb'_append_eq_right

/-- Positions 7 and 8 together add the big-endian checksum to the accumulator (R51, R130, R131). -/
theorem addByte_addHigh (acc : Half) (hi lo : Byte) : addByte (addHigh acc hi) lo = acc + joinBytes hi lo := by
  simpa using highByte_add_lowByte acc (joinBytes hi lo)

theorem runOps_feed_feed (b c : Byte) (s : State) :
    runOps [.feed b, .feed c] s = .next (feedByte c (feedByte b s)) :=
  runOps_feeds [b, c] s

/-- The two checksum bytes, received from position 7 on (R130, R131). -/
theorem feed_checksum {s : State} (pos : s.rx.idx = 7#4) (hi lo : Byte) :
    (feedByte lo (feedByte hi s)).rx.acc = s.rx.acc + joinBytes hi lo ∧
    (feedByte lo (feedByte hi s)).rx.ckok = checksumOk (s.rx.acc + joinBytes hi lo) := by
  simp [pos, posCheckHigh, posCheckLow, addByte_addHigh]

/-- The two parameter bytes, received from position 5 on (R128, R129). -/
theorem feed_param {s : State} (pos : s.rx.idx = 5#4) (hi lo : Byte) :
    (status (feedByte lo (feedByte hi s))).rxParam = joinBytes hi lo := by
  simp [status, pos, posParamHigh, posParamLow]

theorem exec_fill16 (op : Byte) (p : Half) (s : State) :
    exec (fill16 op p) s =
      .next (respond Response.quiet { s with tx := fillRegs op (highByte p) (lowByte p) s.tx }) :=
  exec_fill s op (highByte p) (lowByte p)

/-- Byte `k` of a packed frame stands in bits `79 - 8k` to `72 - 8k` (R37, R70). -/
theorem extractLsb'_packFrame (f : Frame) (k : Fin 10) : (packFrame f).extractLsb' (72 - 8 * k.val) 8 = f[k] := by
  have place : 72 - 8 * k.val = 8 * (9 - k.val) := by omega
  rw [place]
  exact wireByte_packFrame f k k.isLt

/-- Settles O6: the two checksum bytes and the two parameter bytes join high byte first, `FILL16` splits its parameter
and the checksum the same way, and a frame leaves at the ports after a performed `EMIT` only. -/
theorem bigEndianHalves : Obligations.BigEndianHalves := by
  refine ⟨fun hi lo s pos => ?_, fun hi lo s pos => ?_, fun p op s => ?_, fun s => rfl, fun s valid => ?_,
    fun i s t notEmit h => (exec_silent notEmit h).txValidOut_eq⟩
  · obtain ⟨acc, ckok⟩ := feed_checksum pos hi lo
    exact ⟨_, runOps_feed_feed hi lo s, acc, ckok⟩
  · exact ⟨_, runOps_feed_feed hi lo s, feed_param pos hi lo⟩
  · exact ⟨_, exec_fill16 op p s, rfl, rfl, joinBytes_split p, joinBytes_split (checksum op _ _ _)⟩
  · exact ⟨_, _, exec_emit_performed valid, txValidOut_txWrite _ s, txFrameOut_txWrite _ s, extractLsb'_packFrame _⟩

end Sys2Proof.Machine
end

section
/-! The transmit operations of 40_tx_framer.md: the registers after `FILL` written out field by field, and the two
operations of a `SEND`. -/

namespace Sys2Proof.Machine

/-- The checksum of R100 with its five additions written out. -/
theorem checksum_eq (op ack hi lo : Byte) :
    checksum op ack hi lo =
      0#16 - (0x0105#16 + op.setWidth 16 + ack.setWidth 16 + hi.setWidth 16 + lo.setWidth 16) :=
  rfl

/-- Every transmit register after `FILL`: the four operand bytes, the halves of the checksum, `TXVALID` set and
`ACKREQ` kept (R100). -/
theorem fillRegs_eq (op hi lo : Byte) (t : TxRegs) :
    fillRegs op hi lo t =
      { op := op, ack := ackByte t.ackreq, hi := hi, lo := lo
        ckh := highByte (checksum op (ackByte t.ackreq) hi lo)
        ckl := lowByte (checksum op (ackByte t.ackreq) hi lo)
        txvalid := true, ackreq := t.ackreq } :=
  rfl

/-- `FILL` then `EMIT` is performed from every state, since the `FILL` has set `TXVALID`, and writes the frame just
encoded (R104). -/
theorem runOps_fill_emit (op hi lo : Byte) (s : State) :
    runOps [.fill op hi lo, .emit] s =
      .next (txWrite (encodedFrame op (ackByte s.tx.ackreq) hi lo)
        (respond Response.quiet { s with tx := fillRegs op hi lo s.tx })) := by
  have valid : (respond Response.quiet { s with tx := fillRegs op hi lo s.tx }).tx.txvalid = true :=
    fillRegs_txvalid s.tx op hi lo
  rw [runOps_cons (exec_fill s op hi lo), runOps_cons (exec_emit_performed valid), respond_tx, fillRegs_buf, runOps_nil]

/-- Settles O14: `FILL16` and `SEND` are their expansions, and the `EMIT` after a `FILL` appends the encoded frame to a
stream that the `FILL` left alone. -/
theorem sendAlwaysEmits : Obligations.SendAlwaysEmits := by
  refine fun op s => ⟨fun p => rfl, fun p => rfl, fun hi lo => ⟨_, runOps_fill_emit op hi lo s, ?_, rfl⟩⟩
  rw [txStream_txWrite, txStream_respond_of_tx_none rfl]
  rfl

/-- Settles O7: the state is `exec_fill`'s, its transmit registers are those of `fillRegs_eq` with the checksum of
`checksum_eq`, and the buffer puts the hard-wired bytes around them. -/
theorem fillResult : Obligations.FillResult := by
  intro op hi lo s
  refine ⟨?_, rfl⟩
  rw [exec_fill, fillRegs_eq, checksum_eq]
  rfl

/-- Settles O10: `SETACK` replaces the one field `ACKREQ` of the transmit side. -/
theorem setackResult : Obligations.SetackResult :=
  fun v s => exec_setack s v

/-- Settles O11: `TXVALID` decides between the performed `EMIT`, whose frame is `TXBUF` with the hard-wired bytes, and
the refused one. -/
theorem emitResult : Obligations.EmitResult :=
  fun _ => ⟨exec_emit_performed, exec_emit_refused⟩

end Sys2Proof.Machine
end

section
/-! The receive rows of 41_rx_state_machine.md at their own positions, and `RXRESET`: the state after each, field by
field. -/

namespace Sys2Proof.Machine

/-- An operation that feeds one byte consumes it by the rule of the current position (R120). -/
theorem exec_oneByte_consume {i : Instr} {b : Byte} {s : State} {rule : Byte → RxRegs → RxRegs × Bool}
    (fed : fedBytes i = [b]) (here : positionRule s.rx.idx = rule) : exec i s = .next (consume rule b s) := by
  rw [exec_oneByte fed, feedByte_eq here]

/-! ### The verify positions -/

/-- The outcomes of a verify position, each as one update of the registers (R125). -/
theorem verify_eq_ite (expected b : Byte) (r : RxRegs) :
    verify expected b r =
      if b = expected then { r with idx := r.idx + 1#4 }
      else if b = Config.START then { r with idx := 1#4, acc := Config.ACC_INIT, nerrs := r.nerrs + 1#32 }
      else { r with idx := 0#4, acc := Config.ACC_INIT, nerrs := r.nerrs + 1#32 } :=
  rfl

/-- Where the start marker itself is expected, a mismatch cannot resynchronise (R122). -/
theorem verify_start_eq_ite (b : Byte) (r : RxRegs) :
    verify Config.START b r =
      if b = Config.START then { r with idx := r.idx + 1#4 }
      else { r with idx := 0#4, acc := Config.ACC_INIT, nerrs := r.nerrs + 1#32 } := by
  rw [verify_eq_ite]
  split <;> rfl

/-- Counting the byte first is the same as counting it after a verify position's rule (R120, R134). -/
theorem verify_countByte (expected b : Byte) (r : RxRegs) :
    verify expected b (countByte r) = { verify expected b r with nbytes := r.nbytes + 1#32 } := by
  rw [verify_eq_ite, verify_eq_ite]
  split_ifs <;> rfl

/-- A byte received at a verify position: the position's rule, the byte counted, and `done = 0` (R120, R125). -/
theorem exec_verifyPosition {i : Instr} {b expected : Byte} {s : State} (fed : fedBytes i = [b])
    (here : positionRule s.rx.idx = fun c r => (verify expected c r, false)) :
    exec i s = .next (respond (Response.result false)
      { s with rx := { verify expected b s.rx with nbytes := s.rx.nbytes + 1#32 } }) := by
  rw [exec_oneByte_consume fed here, consume, verify_countByte]

/-- Settles O16: each row is `exec_verifyPosition` with its fixed byte; at position 0 that byte is the start marker, so
no mismatch resynchronises. -/
theorem verifyPositionRows : Obligations.VerifyPositionRows := by
  refine fun b s => ⟨fun pos => ?_, fun pos => ?_, fun pos => ?_⟩
  · rw [exec_verifyPosition rfl (pos ▸ positionRule_start), verify_start_eq_ite, pos]
    rfl
  · rw [exec_verifyPosition rfl (pos ▸ positionRule_version), verify_eq_ite, pos]
    rfl
  · rw [exec_verifyPosition rfl (pos ▸ positionRule_length), verify_eq_ite, pos]
    rfl

/-! ### The accept, checksum and terminator positions, and outside the sequence -/

/-- Settles O17: each row consumes the byte by its position's rule, which is one update of the counted registers. -/
theorem acceptPositionRows : Obligations.AcceptPositionRows :=
  fun _ _ =>
    ⟨fun pos => exec_oneByte_consume rfl (pos ▸ positionRule_opcode),
      fun pos => exec_oneByte_consume rfl (pos ▸ positionRule_ack),
      fun pos => exec_oneByte_consume rfl (pos ▸ positionRule_paramHigh),
      fun pos => exec_oneByte_consume rfl (pos ▸ positionRule_paramLow)⟩

/-- Settles O18: as for the accept positions; `checksumOk` is the zero test of all 16 bits. -/
theorem checksumPositionRows : Obligations.ChecksumPositionRows :=
  fun _ _ =>
    ⟨fun pos => exec_oneByte_consume rfl (pos ▸ positionRule_checkHigh),
      fun pos => exec_oneByte_consume rfl (pos ▸ positionRule_checkLow)⟩

/-- Settles O19: the two cases of the terminator's rule, after the byte is counted. -/
theorem terminatorPositionRow : Obligations.TerminatorPositionRow := by
  intro b s pos
  rw [exec_oneByte_consume rfl (pos ▸ positionRule_terminator), consume]
  rcases posTerminator_cases b (countByte s.rx) with ⟨hb, e⟩ | ⟨hb, e⟩
  · rw [e, if_pos hb]
    rfl
  · rw [e, if_neg hb]
    rfl

/-- Settles O20: outside the sequence the rule is the cursor reset, whatever the byte is. -/
theorem defensiveResetRow : Obligations.DefensiveResetRow :=
  fun _ _ outside => exec_oneByte_consume rfl (positionRule_outside outside)

/-- Settles O22: `RXRESET` is the cursor reset, which writes `IDX` and `ACC`, and a quiet response. -/
theorem rxresetResult : Obligations.RxresetResult :=
  fun s => exec_rxreset s

end Sys2Proof.Machine
end

section
/-! The `err` bit of 42_system_ops.md R153: which operations the block refuses, and that no other operation answers a
response with `err = 1`. -/

namespace Sys2Proof.Machine

/-- The operations that the block refuses (R153): `EMIT` before any `FILL`, and the two reserved command codes. -/
def IsRefused (i : Instr) (s : State) : Prop := (i = .emit ∧ s.tx.txvalid = false) ∨ i = .rsv6 ∨ i = .rsv7

theorem exec_of_isRefused {i : Instr} {s : State} (refused : IsRefused i s) : exec i s = .next (refuse s) := by
  obtain ⟨rfl, invalid⟩ | rfl | rfl := refused
  · exact exec_emit_refused invalid
  · exact exec_rsv6 s
  · exact exec_rsv7 s

/-- The responses that `t` has after those of `s` all have `err = 0`. -/
def AnswersWithoutErr (s t : State) : Prop := ∃ rs, t.trace = s.trace ++ rs ∧ ∀ r ∈ rs, r.err = false

theorem answersWithoutErr_respond {s u : State} {r : Response} (kept : u.trace = s.trace) (ok : r.err = false) :
    AnswersWithoutErr s (respond r u) :=
  ⟨[r], by rw [respond_trace, kept], by simpa using ok⟩

/-- No received byte is refused: its response is `done` or quiet (R39, R120). -/
theorem answersWithoutErr_feedBytes (bs : List Byte) (s : State) : AnswersWithoutErr s (feedBytes bs s) := by
  induction bs generalizing s with
  | nil => exact ⟨[], by simp⟩
  | cons b bs ih =>
    obtain ⟨rs, trace, ok⟩ := ih (feedByte b s)
    rw [feedByte_trace, List.append_assoc, List.singleton_append] at trace
    exact ⟨_, trace, List.forall_mem_cons.2 ⟨rfl, ok⟩⟩

/-- Every operation but a refused one answers with `err = 0` (R153). -/
theorem exec_answersWithoutErr {i : Instr} {s t : State} (accepted : ¬ IsRefused i s) (h : exec i s = .next t) :
    AnswersWithoutErr s t := by
  rcases exec_cases h with
    ⟨-, rfl⟩ | ⟨op, hi, lo, -, rfl⟩ | ⟨v, -, rfl⟩ | ⟨-, -, rfl⟩ | ⟨refused, -⟩ | ⟨-, rfl⟩ | ⟨-, rfl⟩
  case inl => exact answersWithoutErr_feedBytes _ s
  case inr.inr.inr.inr.inl => exact absurd refused accepted
  all_goals exact answersWithoutErr_respond rfl rfl

theorem exec_answersErr_iff_isRefused {i : Instr} {s t : State} (h : exec i s = .next t) :
    (∃ r ∈ t.trace.drop s.trace.length, r.err = true) ↔ IsRefused i s := by
  constructor
  · rintro ⟨r, new, err⟩
    by_contra accepted
    obtain ⟨rs, trace, ok⟩ := exec_answersWithoutErr accepted h
    rw [trace, List.drop_left] at new
    simp [ok r new] at err
  · intro refused
    rw [exec_of_isRefused refused] at h
    cases h
    exact ⟨Response.refusal, by simp [refuse], rfl⟩

/-- Settles O42: a refused operation is `refuse`, whose one response has `err = 1`, and every other operation answers
with `err = 0`. -/
theorem exactlyTwoThingsRefused : Obligations.ExactlyTwoThingsRefused := by
  refine fun i s t h => ⟨exec_answersErr_iff_isRefused h, fun refused => ?_⟩
  rw [exec_of_isRefused refused] at h
  cases h
  rfl

end Sys2Proof.Machine
end

section
/-! The windows that a successful send arms (43_environment.md R164), one row of the table at a time. -/

namespace Sys2Proof.Machine

variable {tw : Nat} (cfg : EnvConfig tw) (now : BitVec tw)

theorem runningAt_eq_false_iff (t : Deadline tw) : runningAt t now = false ↔ ¬ (now - t.tSet).toNat < t.window :=
  decide_eq_false_iff_not

/-! ### The rows of the table -/

theorem armWindows_reset (d : Driver tw) :
    armWindows cfg now 0x0C#8 d = { d with busy := ⟨now, cfg.tBootBusy⟩, overdue := some ⟨now, cfg.tBootOverdue⟩ } :=
  rfl

theorem armWindows_mediaSelect_busy {op : Byte} (notReset : op ≠ 0x0C#8) (select : op = cfg.opMediaSelect)
    (d : Driver tw) : (armWindows cfg now op d).busy = ⟨now, cfg.tMediaBusy⟩ := by
  rw [armWindows, if_neg notReset, if_pos select]

theorem armWindows_other_busy {op : Byte} (notReset : op ≠ 0x0C#8) (notSelect : op ≠ cfg.opMediaSelect)
    (d : Driver tw) :
    (armWindows cfg now op d).busy = ⟨now, if d.block.tx.ackreq then 0 else cfg.tSettle⟩ := by
  rw [armWindows, if_neg notReset, if_neg notSelect]

/-! ### What a send hands to the table -/

/-- A send does not change whether frames request an acknowledgement (R100, R103). -/
@[simp] theorem transmit_ackreq (op hi lo : Byte) (s : State) : (transmit op hi lo s).tx.ackreq = s.tx.ackreq := by
  rw [transmit_eq, txWrite_tx, respond_tx, fillRegs_ackreq]

@[simp] theorem noteMedium_block (op hi lo : Byte) (d : Driver tw) : (noteMedium cfg op hi lo d).block = d.block := by
  unfold noteMedium
  split <;> rfl

/-- A send on a free link arms the windows of a driver with the `ACKREQ` from before the send, so that the last two
rows can be read off the state before it (R163, R164). -/
theorem send_free_arms {d : Driver tw} (free : runningAt d.busy now = false) (op hi lo : Byte) :
    ∃ sent : Driver tw, sent.block.tx.ackreq = d.block.tx.ackreq ∧
      (send cfg now op hi lo d).1 = armWindows cfg now op sent := by
  refine ⟨noteMedium cfg op hi lo { d with block := transmit op hi lo d.block, lastSend := now }, ?_, ?_⟩
  · rw [noteMedium_block, transmit_ackreq]
  · rw [send, free, if_neg Bool.false_ne_true]

/-- Settles O56: a send on a free link arms by the opcode's row of the table, at the `ACKREQ` it found. -/
theorem sendArmsWindows : Obligations.SendArmsWindows := by
  intro tw cfg now op hi lo d expired
  obtain ⟨sent, ackreq, arms⟩ := send_free_arms cfg now ((runningAt_eq_false_iff now d.busy).2 expired) op hi lo
  rw [arms]
  refine ⟨?reset, fun notReset select => armWindows_mediaSelect_busy cfg now notReset select sent, ?settle, ?pipeline⟩
  case reset =>
    rintro rfl
    rw [armWindows_reset]
    exact ⟨rfl, rfl⟩
  case settle =>
    intro notReset notSelect noAck
    rw [armWindows_other_busy cfg now notReset notSelect, ackreq, noAck, if_neg Bool.false_ne_true]
  case pipeline =>
    intro notReset notSelect ack
    rw [armWindows_other_busy cfg now notReset notSelect, ackreq, ack, if_pos rfl]

end Sys2Proof.Machine
end

section
/-! The framing errors of 60_exceptions.md R191, the checksum flag of R193, and the totality of R208. -/

namespace Sys2Proof.Machine

/-! ### The framing errors -/

/-- A framing error is raised by a mismatch at one of the four positions that have a fixed byte (R190). -/
theorem fixedByteMismatch_of_byteEvent {b : Byte} {r : RxRegs} {e : Event} (raised : byteEvent b r = some e)
    (framing : e.isFraming = true) :
    (r.idx = 0#4 ∧ b ≠ Config.START) ∨ (r.idx = 1#4 ∧ b ≠ Config.VER) ∨ (r.idx = 2#4 ∧ b ≠ Config.LEN) ∨
      (r.idx = 9#4 ∧ b ≠ Config.END) := by
  have mismatch {p : Prop} [Decidable p] {c : Event} (h : (if p then none else some c) = some e) : ¬ p ∧ c = e := by
    simpa using h
  unfold byteEvent at raised
  split at raised
  next pos => exact .inl ⟨BitVec.eq_of_toNat_eq pos, (mismatch raised).1⟩
  next pos => exact .inr (.inl ⟨BitVec.eq_of_toNat_eq pos, (mismatch raised).1⟩)
  next pos => exact .inr (.inr (.inl ⟨BitVec.eq_of_toNat_eq pos, (mismatch raised).1⟩))
  iterate 5 cases raised
  next => obtain ⟨-, rfl⟩ := mismatch raised; cases framing
  next pos => exact .inr (.inr (.inr ⟨BitVec.eq_of_toNat_eq pos, (mismatch raised).1⟩))
  next => cases raised; cases framing

/-- A mismatch at a verify position: the framing error, with the cursor behind the start marker when the byte is one
(R125). -/
theorem verify_of_ne {expected b : Byte} (mismatch : b ≠ expected) (r : RxRegs) :
    verify expected b r = { framingError r with idx := if b = Config.START then 1#4 else 0#4 } := by
  rw [verify, if_neg mismatch]
  split <;> rfl

/-- The rule that runs when a byte raises a framing error, on any registers: the framing error with the cursor that
R191 gives, and `done = 0`. -/
theorem positionRule_of_framing {b : Byte} {r : RxRegs} {e : Event} (raised : byteEvent b r = some e)
    (framing : e.isFraming = true) (x : RxRegs) :
    positionRule r.idx b x =
      ({ framingError x with
          idx := if b = Config.START ∧ (r.idx = 1#4 ∨ r.idx = 2#4) then 1#4 else 0#4 }, false) := by
  rcases fixedByteMismatch_of_byteEvent raised framing with ⟨pos, ne⟩ | ⟨pos, ne⟩ | ⟨pos, ne⟩ | ⟨pos, ne⟩
  · rw [pos, positionRule_start, posStart, verify_of_ne ne, if_neg ne]
    simp
  · rw [pos, positionRule_version, posVersion, verify_of_ne ne]
    simp
  · rw [pos, positionRule_length, posLength, verify_of_ne ne]
    simp
  · rw [pos, positionRule_terminator, posTerminator, if_neg ne]
    simp [framingError, cursorReset]

/-- Settles O27: the byte is counted, and the rule of its position is the framing error. -/
theorem framingErrorEffect : Obligations.FramingErrorEffect := by
  intro b s e raised framing
  rw [exec_feed, feedByte, consume, positionRule_of_framing raised framing]
  rfl

/-! ### The checksum test is a flag -/

/-- The low checksum byte and the terminator, received from position 8 on (R131, R132). -/
theorem feedBytes_checkLow_end {s : State} (pos : s.rx.idx = 8#4) (b : Byte) :
    feedBytes [b, Config.END] s = consume posTerminator Config.END (consume posCheckLow b s) := by
  have low : feedByte b s = consume posCheckLow b s := feedByte_eq (pos ▸ positionRule_checkLow) b
  rw [feedBytes_cons, feedBytes_cons, feedBytes_nil, low]
  exact feedByte_eq positionRule_terminator _

/-- Settles O30: position 8 writes `CKOK` and goes on to position 9 whatever the test says, and position 9 looks only
at the terminator. -/
theorem checksumMismatchIsAFlag : Obligations.ChecksumMismatchIsAFlag := by
  intro b s pos
  refine ⟨_, (runOps_feeds _ s).trans (congrArg _ (feedBytes_checkLow_end pos b)), ?trace, ?ckok, rfl, rfl, rfl⟩
  case trace => exact List.append_assoc s.trace _ _
  case ckok => exact Bool.beq_eq_decide_eq _ _

/-! ### Every operation and every step has a next state -/

theorem exec_total (i : Instr) (s : State) : ∃ t, exec i s = .next t := by
  cases i
  case nop | fill | setack | rxreset | rsv6 | rsv7 | frame => exact ⟨_, rfl⟩
  case emit =>
    cases valid : s.tx.txvalid
    · exact ⟨_, exec_emit_refused valid⟩
    · exact ⟨_, exec_emit_performed valid⟩
  all_goals exact ⟨_, exec_oneByte rfl s⟩

/-- Every input is a reset, an operation, or ten bytes to receive (R208, R211). -/
theorem execInput_total (p : Input) (s : State) : ∃ t, execInput p s = .next t := by
  unfold execInput
  split
  next => exact ⟨_, rfl⟩
  next => exact exec_total .nop s
  next w => exact exec_total (decodeCmd w) s
  next b => exact exec_total (decodeRx s.rx.idx b) s
  next f =>
    split
    next i decoded => exact exec_total i s
    next => exact ⟨_, rfl⟩

theorem step_total (s : State) : ∃ t, step s = .next t := by
  cases pins : s.pins with
  | nil => exact step_nil pins ▸ exec_total .nop s
  | cons p rest => exact step_cons pins ▸ execInput_total p { s with pins := rest }

/-- Settles O43: operations and steps are total, and `RXRESET` is the cursor reset. -/
theorem nothingIsFatal : Obligations.NothingIsFatal := by
  refine ⟨exec_total, step_total, fun s t h => ?_⟩
  rw [exec_rxreset] at h
  cases h
  exact cursorReset_idx s.rx

end Sys2Proof.Machine
end

section
/-! The decoder after the encoder (30_encoding.md R70, R80 to R82): the eight command codes with their operand bits, the
wire frame with its fixed bytes, and the received byte at its row's position. -/

namespace Sys2Proof

/-! ### Command words -/

/-- The three code bits of a command word (R80). -/
theorem cmdWord_opc (opc : BitVec 3) (a b c : Byte) :
    (cmdWord opc a b c)[26] = opc[2] ∧ (cmdWord opc a b c)[25] = opc[1] ∧ (cmdWord opc a b c)[24] = opc[0] := by
  simp [← BitVec.getLsbD_eq_getElem, cmdWord_bit]

/-- Bit 0 of a command word is bit 0 of its last field (R80). -/
theorem cmdWord_zero (opc : BitVec 3) (a b low : Byte) : (cmdWord opc a b low)[0] = low[0] := by
  simp [← BitVec.getLsbD_eq_getElem, cmdWord_bit]

section
variable (a b c : Byte)

theorem decodeCmd_nop : decodeCmd (cmdWord 0 a b c) = .nop := by
  simp [decodeCmd, cmdWord_opc]

theorem decodeCmd_fill : decodeCmd (cmdWord 1 a b c) = .fill a b c := by
  simp [decodeCmd, cmdWord_opc, cmdWord_a, cmdWord_b, cmdWord_c]

theorem decodeCmd_emit : decodeCmd (cmdWord 2 a b c) = .emit := by
  simp [decodeCmd, cmdWord_opc]

theorem decodeCmd_feed : decodeCmd (cmdWord 3 a b c) = .feed c := by
  simp [decodeCmd, cmdWord_opc, cmdWord_c]

theorem decodeCmd_rxreset : decodeCmd (cmdWord 4 a b c) = .rxreset := by
  simp [decodeCmd, cmdWord_opc]

/-- Of `SETACK`'s operand byte only bit 0 counts (R82). -/
theorem decodeCmd_setack : decodeCmd (cmdWord 5 a b c) = .setack (c.getLsbD 0) := by
  simp [decodeCmd, cmdWord_opc, cmdWord_zero]

theorem decodeCmd_rsv6 : decodeCmd (cmdWord 6 a b c) = .rsv6 := by
  simp [decodeCmd, cmdWord_opc]

theorem decodeCmd_rsv7 : decodeCmd (cmdWord 7 a b c) = .rsv7 := by
  simp [decodeCmd, cmdWord_opc]

end

@[simp] theorem ackByte_getLsbD_zero (v : Bool) : (Machine.ackByte v).getLsbD 0 = v := by
  cases v <;> rfl

/-! ### Frame values -/

/-- A frame value is decoded to the frame of its six free bytes (R70). -/
theorem decodeWire_of_isWireFrame {f : Wire} (fixed : isWireFrame f = true) :
    decodeWire f = .ok (.frame (Machine.wireByte f 3) (Machine.wireByte f 4) (Machine.wireByte f 5)
      (Machine.wireByte f 6) (Machine.wireByte f 7) (Machine.wireByte f 8)) :=
  if_pos fixed

theorem decodeWire_packFrame (op ack hi lo ckh ckl : Byte) :
    decodeWire (Machine.packFrame (Machine.frameBytes op ack hi lo ckh ckl)) = .ok (.frame op ack hi lo ckh ckl) := by
  rw [decodeWire_of_isWireFrame (isWireFrame_packFrame op ack hi lo ckh ckl)]
  simp only [Machine.wireByte_packFrame _ _ (by decide : 3 < 10), Machine.wireByte_packFrame _ _ (by decide : 4 < 10),
    Machine.wireByte_packFrame _ _ (by decide : 5 < 10), Machine.wireByte_packFrame _ _ (by decide : 6 < 10),
    Machine.wireByte_packFrame _ _ (by decide : 7 < 10), Machine.wireByte_packFrame _ _ (by decide : 8 < 10)]
  rfl

/-- A value with the fixed bytes of a frame is the packing of its ten bytes: no bit is dropped (R70). -/
theorem packFrame_wireBytes {f : Wire} (fixed : isWireFrame f = true) :
    Machine.packFrame (Machine.frameBytes (Machine.wireByte f 3) (Machine.wireByte f 4) (Machine.wireByte f 5)
      (Machine.wireByte f 6) (Machine.wireByte f 7) (Machine.wireByte f 8)) = f := by
  obtain ⟨start, ver, len, terminator⟩ := (isWireFrame_iff f).1 fixed
  apply Machine.wire_ext
  intro k hk
  rw [Machine.wireByte_packFrame _ k hk]
  interval_cases k
  · exact start.symm
  · exact ver.symm
  · exact len.symm
  iterate 6 rfl
  · exact terminator.symm

/-- Settles O1: the command codes by their eight decoding lemmas, the frame by its ten bytes read back, and the receive
rows by the position that their code carries. -/
theorem encodedInstructionDecodesBack : Obligations.EncodedInstructionDecodesBack := by
  intro i
  cases i
  case nop => exact congrArg _ (decodeCmd_nop 0 0 0)
  case fill op hi lo => exact congrArg _ (decodeCmd_fill op hi lo)
  case emit => exact congrArg _ (decodeCmd_emit 0 0 0)
  case feed b => exact congrArg _ (decodeCmd_feed 0 0 b)
  case rxreset => exact congrArg _ (decodeCmd_rxreset 0 0 0)
  case setack v =>
    exact congrArg _ ((decodeCmd_setack 0 0 (Machine.ackByte v)).trans (congrArg _ (ackByte_getLsbD_zero v)))
  case rsv6 => exact congrArg _ (decodeCmd_rsv6 0 0 0)
  case rsv7 => exact congrArg _ (decodeCmd_rsv7 0 0 0)
  case frame op ack hi lo ckh ckl => exact decodeWire_packFrame op ack hi lo ckh ckl
  all_goals rfl

/-- Settles O2: the canonical encodings are `cmdWord`s as they stand, and each code's decoding lemma leaves the unused
fields free. -/
theorem unusedOperandBitsIgnored : Obligations.UnusedOperandBitsIgnored := by
  refine ⟨fun v => rfl, rfl, rfl, rfl, fun a b c => ⟨rfl, rfl, ?_⟩⟩
  exact ⟨congrArg _ (decodeCmd_nop a b c), congrArg _ (decodeCmd_fill a b c), congrArg _ (decodeCmd_emit a b c),
    congrArg _ (decodeCmd_feed a b c), congrArg _ (decodeCmd_rxreset a b c), congrArg _ (decodeCmd_setack a b c),
    congrArg _ (decodeCmd_rsv6 a b c), congrArg _ (decodeCmd_rsv7 a b c)⟩

/-- Settles O3: the decoder's mask test is the test of the four fixed bytes, and the value is the packing of its ten
bytes. -/
theorem wireFrameDecodesByFixedBytes : Obligations.WireFrameDecodesByFixedBytes := by
  refine fun f => ⟨fun fixed => ?_, fun other => ?_⟩
  · have frame : isWireFrame f = true := (isWireFrame_iff f).2 fixed
    exact ⟨_, decodeWire_of_isWireFrame frame, congrArg _ (packFrame_wireBytes frame), rfl⟩
  · exact if_neg fun frame => other ((isWireFrame_iff f).1 frame)

/-- Settles O4: the decoder run on each of the written-out words. -/
theorem writtenOutWordsDecode : Obligations.WrittenOutWordsDecode := by
  unfold Obligations.WrittenOutWordsDecode
  decide

end Sys2Proof
end

section
/-! What one received byte does: the transition table of 41_rx_state_machine.md R137, assembled from the rows at their
own positions, the events of 60_exceptions.md R190, and the five outcomes of a byte that later proofs go by. -/

namespace Sys2Proof.Machine

/-! ### The transition table -/

/-- Two operations that feed the same one byte do the same (R120). -/
theorem exec_eq_of_fedBytes {i j : Instr} {b : Byte} (hi : fedBytes i = [b]) (hj : fedBytes j = [b]) (s : State) :
    exec i s = exec j s := by
  rw [exec_oneByte hi, exec_oneByte hj]

/-- Settles O21: a row and a `FEED` feed the same one byte. -/
theorem receiveRowsActAsFeed : Obligations.ReceiveRowsActAsFeed := by
  intro b s row mem
  have fed : fedBytes row = [b] := by
    simp only [List.mem_cons, List.not_mem_nil, or_false] at mem
    rcases mem with rfl | rfl | rfl | rfl | rfl | rfl | rfl | rfl | rfl | rfl | rfl <;> rfl
  exact exec_eq_of_fedBytes fed rfl s

/-- A shift by 8 is a multiplication by 256 (R130). -/
theorem zext16_shiftLeft (b : Byte) : b.setWidth 16 <<< 8 = b.setWidth 16 * 256#16 :=
  BitVec.shiftLeft_eq_mul_twoPow _ 8

/-- Settles O15: a `FEED` at a position is the position's row, and the rows' results are those of the table. -/
theorem feedTransitionTable : Obligations.FeedTransitionTable := by
  intro b s
  have feed {i : Instr} (fed : fedBytes i = [b]) : exec (.feed b) s = exec i s := exec_eq_of_fedBytes rfl fed s
  obtain ⟨start, version, length⟩ := verifyPositionRows b s
  obtain ⟨opcode, ack, paramHigh, paramLow⟩ := acceptPositionRows b s
  obtain ⟨checkHigh, checkLow⟩ := checksumPositionRows b s
  have terminator := terminatorPositionRow b s
  rw [zext16_shiftLeft] at checkHigh
  refine ⟨fun pos hb => ?_, fun pos hb => ?_, fun pos hb => ?_, fun pos hb => ?_, fun pos ne hb => ?_,
    fun pos hb => ?_, fun pos hb => ?_, fun pos ne hb => ?_, fun pos => (feed rfl).trans (opcode pos),
    fun pos => (feed rfl).trans (ack pos), fun pos => (feed rfl).trans (paramHigh pos),
    fun pos => (feed rfl).trans (paramLow pos), fun pos => (feed rfl).trans (checkHigh pos),
    fun pos => (feed rfl).trans (checkLow pos), fun pos hb => ?_, fun pos hb => ?_,
    fun outside => (feed rfl).trans (defensiveResetRow b s outside)⟩
  · rw [feed (i := .rxpos0 b) rfl, start pos, if_pos hb]
  · rw [feed (i := .rxpos0 b) rfl, start pos, if_neg hb]
  · rw [feed (i := .rxpos1 b) rfl, version pos, if_pos hb]
  · rw [feed (i := .rxpos1 b) rfl, version pos, if_neg (hb ▸ by decide), if_pos hb]
  · rw [feed (i := .rxpos1 b) rfl, version pos, if_neg ne, if_neg hb]
  · rw [feed (i := .rxpos2 b) rfl, length pos, if_pos hb]
  · rw [feed (i := .rxpos2 b) rfl, length pos, if_neg (hb ▸ by decide), if_pos hb]
  · rw [feed (i := .rxpos2 b) rfl, length pos, if_neg ne, if_neg hb]
  · rw [feed (i := .rxpos9 b) rfl, terminator pos, if_pos hb]
  · rw [feed (i := .rxpos9 b) rfl, terminator pos, if_neg hb]

/-- An operation that feeds bytes receives them in order and does nothing else (R120, 30_encoding.md R90). -/
theorem exec_of_fedBytes {i : Instr} (bytes : fedBytes i ≠ []) (s : State) :
    exec i s = .next (feedBytes (fedBytes i) s) := by
  cases i
  case nop | fill | emit | rxreset | setack | rsv6 | rsv7 => exact absurd rfl bytes
  case frame => rfl
  all_goals exact exec_oneByte rfl s

/-! ### The events of a byte -/

theorem byteEvent_outside {r : RxRegs} (outside : 10#4 ≤ r.idx) (b : Byte) : byteEvent b r = some .defensive := by
  have large : 10 ≤ r.idx.toNat := outside
  unfold byteEvent
  split
  iterate 10 omega
  rfl

/-- Settles O28: the event at each value of `IDX`. -/
theorem byteEventsByPosition : Obligations.ByteEventsByPosition := by
  intro b r
  rcases positionRule_cases r.idx with ⟨pos, -⟩ | ⟨pos, -⟩ | ⟨pos, -⟩ | ⟨pos, -⟩ | ⟨pos, -⟩ | ⟨pos, -⟩ | ⟨pos, -⟩ |
    ⟨pos, -⟩ | ⟨pos, -⟩ | ⟨pos, -⟩ | ⟨outside, -⟩
  iterate 10 simp [byteEvent, pos, checksumOk, addByte, zext16]
  obtain ⟨ne0, ne1, ne2, ne9⟩ := ne_fixedPosition_of_outside outside
  have ne8 : r.idx ≠ 8#4 := fun pos => absurd (pos ▸ outside) (by decide)
  simp [byteEvent_outside outside, outside, ne0, ne1, ne2, ne8, ne9]

theorem byteEvent_defensive_iff (b : Byte) (r : RxRegs) : byteEvent b r = some .defensive ↔ 10#4 ≤ r.idx := by
  obtain ⟨-, -, -, -, -, defensive⟩ := byteEventsByPosition b r
  exact defensive

/-- A byte other than the fixed byte of its position, at one of the four positions that have one (R190). -/
def FixedByteMismatch (b : Byte) (r : RxRegs) : Prop :=
  (r.idx = 0#4 ∧ b ≠ Config.START) ∨ (r.idx = 1#4 ∧ b ≠ Config.VER) ∨ (r.idx = 2#4 ∧ b ≠ Config.LEN) ∨
    (r.idx = 9#4 ∧ b ≠ Config.END)

/-- The framing errors are the mismatches at the four fixed positions (R190, R191). -/
theorem exists_framing_iff (b : Byte) (r : RxRegs) :
    (∃ e, byteEvent b r = some e ∧ e.isFraming = true) ↔ FixedByteMismatch b r := by
  constructor
  · rintro ⟨e, raised, framing⟩
    exact fixedByteMismatch_of_byteEvent raised framing
  · obtain ⟨fe0, fe1, fe2, fe9, -, -⟩ := byteEventsByPosition b r
    rintro (mismatch | mismatch | mismatch | mismatch)
    · exact ⟨_, fe0.2 mismatch, rfl⟩
    · exact ⟨_, fe1.2 mismatch, rfl⟩
    · exact ⟨_, fe2.2 mismatch, rfl⟩
    · exact ⟨_, fe9.2 mismatch, rfl⟩

/-! ### The five outcomes of a byte -/

/-- Outside the sequence and inside it exclude each other (R24, R133). -/
theorem not_le_nine_of_outside {idx : BitVec 4} (outside : 10#4 ≤ idx) : ¬ idx ≤ 9#4 := by bv_omega

/-- What a received byte makes of the receive registers, and its `done`: it is the fixed byte of a verify position, or
a framing error, or is accepted at one of the positions 3 to 8, or completes the frame, or is discarded outside the
sequence (R137). Later proofs go by these five cases. -/
inductive ByteOutcome (b : Byte) (r : RxRegs) : RxRegs → Bool → Prop where
  | verified
      (fixed : (r.idx = 0#4 ∧ b = Config.START) ∨ (r.idx = 1#4 ∧ b = Config.VER) ∨ (r.idx = 2#4 ∧ b = Config.LEN)) :
      ByteOutcome b r { r with idx := r.idx + 1#4, nbytes := r.nbytes + 1#32 } false
  | framing (mismatch : FixedByteMismatch b r) :
      ByteOutcome b r
        { r with
          idx := if b = Config.START ∧ (r.idx = 1#4 ∨ r.idx = 2#4) then 1#4 else 0#4
          acc := Config.ACC_INIT
          nbytes := r.nbytes + 1#32
          nerrs := r.nerrs + 1#32 } false
  | accepted (x : RxRegs) (lower : 3#4 ≤ r.idx) (upper : r.idx ≤ 8#4) (idx : x.idx = r.idx + 1#4)
      (nbytes : x.nbytes = r.nbytes + 1#32) (npkts : x.npkts = r.npkts) (nerrs : x.nerrs = r.nerrs) :
      ByteOutcome b r x false
  | completed (pos : r.idx = 9#4) (terminator : b = Config.END) :
      ByteOutcome b r { r with idx := 10#4, nbytes := r.nbytes + 1#32, npkts := r.npkts + 1#32 } true
  | discarded (outside : 10#4 ≤ r.idx) :
      ByteOutcome b r { r with idx := 0#4, acc := Config.ACC_INIT, nbytes := r.nbytes + 1#32 } false

/-- A mismatch at a fixed position is a framing error (R191). -/
theorem positionRule_of_mismatch {b : Byte} {r : RxRegs} (mismatch : FixedByteMismatch b r) :
    positionRule r.idx b (countByte r) =
      ({ r with
          idx := if b = Config.START ∧ (r.idx = 1#4 ∨ r.idx = 2#4) then 1#4 else 0#4
          acc := Config.ACC_INIT
          nbytes := r.nbytes + 1#32
          nerrs := r.nerrs + 1#32 }, false) := by
  obtain ⟨e, raised, framing⟩ := (exists_framing_iff b r).2 mismatch
  exact positionRule_of_framing raised framing (countByte r)

/-- Every byte has one of the five outcomes. -/
theorem positionRule_outcome (b : Byte) (r : RxRegs) :
    ByteOutcome b r (positionRule r.idx b (countByte r)).1 (positionRule r.idx b (countByte r)).2 := by
  by_cases mismatch : FixedByteMismatch b r
  · rw [positionRule_of_mismatch mismatch]
    exact .framing mismatch
  simp only [FixedByteMismatch, not_or, not_and, not_not] at mismatch
  obtain ⟨start, ver, len, terminator⟩ := mismatch
  rcases positionRule_cases r.idx with ⟨pos, e⟩ | ⟨pos, e⟩ | ⟨pos, e⟩ | ⟨pos, e⟩ | ⟨pos, e⟩ | ⟨pos, e⟩ | ⟨pos, e⟩ |
    ⟨pos, e⟩ | ⟨pos, e⟩ | ⟨pos, e⟩ | ⟨outside, e⟩
  · rw [e, posStart, verify, if_pos (start pos)]
    exact .verified (.inl ⟨pos, start pos⟩)
  · rw [e, posVersion, verify, if_pos (ver pos)]
    exact .verified (.inr (.inl ⟨pos, ver pos⟩))
  · rw [e, posLength, verify, if_pos (len pos)]
    exact .verified (.inr (.inr ⟨pos, len pos⟩))
  iterate 6
    rw [e]
    exact .accepted _ (by simp [pos]) (by simp [pos]) (by simp [pos]; rfl) rfl rfl rfl
  · rw [e, posTerminator, if_pos (terminator pos)]
    exact .completed pos (terminator pos)
  · rw [e]
    exact .discarded outside

/-- How a byte moves the cursor (R24): from 10 and above to 0; within the sequence up by one with no error counted, or
with one error counted to 0 or 1 from a verify position and to 0 from the terminator position. -/
theorem ByteOutcome.moves {b : Byte} {r x : RxRegs} {done : Bool} (h : ByteOutcome b r x done) :
    (10#4 ≤ r.idx ∧ x.idx = 0#4) ∨
    (r.idx ≤ 9#4 ∧ x.idx = r.idx + 1#4 ∧ x.nerrs = r.nerrs) ∨
    (r.idx ≤ 2#4 ∧ (x.idx = 0#4 ∨ x.idx = 1#4) ∧ x.nerrs = r.nerrs + 1#32) ∨
    (r.idx = 9#4 ∧ x.idx = 0#4 ∧ x.nerrs = r.nerrs + 1#32) := by
  cases h with
  | verified fixed => rcases fixed with ⟨pos, -⟩ | ⟨pos, -⟩ | ⟨pos, -⟩ <;> simp [pos]
  | framing mismatch => rcases mismatch with ⟨pos, -⟩ | ⟨pos, -⟩ | ⟨pos, -⟩ | ⟨pos, -⟩ <;> simp [pos, em']
  | accepted _ _ upper idx _ _ nerrs => exact .inr (.inl ⟨BitVec.le_trans upper (by decide), idx, nerrs⟩)
  | completed pos _ => simp [pos]
  | discarded outside => exact .inl ⟨outside, rfl⟩

theorem ByteOutcome.idx_of_done {b : Byte} {r x : RxRegs} {done : Bool} (h : ByteOutcome b r x done)
    (completed : done = true) : x.idx = 10#4 := by
  cases h with
  | completed _ _ => rfl
  | _ => cases completed

/-- A byte completes a frame exactly when it is the terminator at position 9 (R132). -/
theorem ByteOutcome.done_iff {b : Byte} {r x : RxRegs} {done : Bool} (h : ByteOutcome b r x done) :
    done = true ↔ r.idx = 9#4 ∧ b = Config.END := by
  cases h with
  | verified fixed => rcases fixed with ⟨pos, -⟩ | ⟨pos, -⟩ | ⟨pos, -⟩ <;> simp [pos]
  | framing mismatch => rcases mismatch with ⟨pos, -⟩ | ⟨pos, -⟩ | ⟨pos, -⟩ | ⟨pos, ne⟩ <;> simp_all
  | accepted _ _ upper => simp [show r.idx ≠ 9#4 by bv_omega]
  | completed pos terminator => simp [pos, terminator]
  | discarded outside => simp [(ne_fixedPosition_of_outside outside).2.2.2]

theorem feedByte_outcome (b : Byte) (s : State) :
    ByteOutcome b s.rx (feedByte b s).rx (lastResponse (feedByte b s)).done := by
  rw [lastResponse_feedByte]
  exact positionRule_outcome b s.rx

/-! ### The responses to received bytes -/

/-- The responses to received bytes, in order (R39, R120). -/
def feedResponses : List Byte → State → List Response
  | [], _ => []
  | b :: bs, s => lastResponse (feedByte b s) :: feedResponses bs (feedByte b s)

theorem feedBytes_trace (bs : List Byte) (s : State) : (feedBytes bs s).trace = s.trace ++ feedResponses bs s := by
  induction bs generalizing s with
  | nil => exact (List.append_nil _).symm
  | cons b bs ih =>
    rw [feedBytes_cons, ih, feedByte_trace, feedResponses, lastResponse_feedByte, List.append_assoc]
    rfl

theorem length_feedResponses (bs : List Byte) (s : State) : (feedResponses bs s).length = bs.length := by
  induction bs generalizing s with
  | nil => rfl
  | cons b bs ih => exact congrArg (· + 1) (ih _)

theorem feedResponses_append (bs cs : List Byte) (s : State) :
    feedResponses (bs ++ cs) s = feedResponses bs s ++ feedResponses cs (feedBytes bs s) := by
  induction bs generalizing s with
  | nil => rfl
  | cons b bs ih => exact congrArg (_ :: ·) (ih _)

/-- A received byte is answered quietly or with `done`: it is neither refused nor does it emit (R39). -/
theorem eq_result_of_mem_feedResponses {bs : List Byte} {s : State} {r : Response} (mem : r ∈ feedResponses bs s) :
    r = Response.result r.done := by
  induction bs generalizing s with
  | nil => cases mem
  | cons b bs ih =>
    rcases List.mem_cons.1 mem with rfl | mem
    · rw [lastResponse_feedByte]
      rfl
    · exact ih mem

end Sys2Proof.Machine
end

section
/-! The receive registers one by one: the fields and `CKOK` (10_state.md R22, R26), the counters at their wrap
(60_exceptions.md R210), the cursor (10_state.md R24), and the error count against the events (10_state.md R31,
60_exceptions.md R190). -/

namespace Sys2Proof.Machine

/-! ### The field registers and `CKOK` -/

/-- Two sets of receive registers with the same fields and the same `CKOK`. -/
def SameFields (x r : RxRegs) : Prop :=
  x.rxop = r.rxop ∧ x.rxack = r.rxack ∧ x.rxph = r.rxph ∧ x.rxpl = r.rxpl ∧ x.ckok = r.ckok

theorem verify_sameFields (expected b : Byte) (r : RxRegs) : SameFields (verify expected b r) r := by
  rcases verify_cases expected b r with ⟨-, e⟩ | ⟨-, -, e⟩ | ⟨-, -, e⟩ <;> rw [e] <;> exact ⟨rfl, rfl, rfl, rfl, rfl⟩

theorem posTerminator_sameFields (b : Byte) (r : RxRegs) : SameFields (posTerminator b r).1 r := by
  rcases posTerminator_cases b r with ⟨-, e⟩ | ⟨-, e⟩ <;> rw [e] <;> exact ⟨rfl, rfl, rfl, rfl, rfl⟩

/-- Each position's rule writes the field of its position, position 8 writes `CKOK`, and no rule writes another
(R22, R26). -/
theorem positionRule_fields (idx : BitVec 4) (b : Byte) (r : RxRegs) :
    SameFields (positionRule idx b r).1
      { r with
        rxop := if idx = 3#4 then b else r.rxop
        rxack := if idx = 4#4 then b else r.rxack
        rxph := if idx = 5#4 then b else r.rxph
        rxpl := if idx = 6#4 then b else r.rxpl
        ckok := if idx = 8#4 then checksumOk (addByte r.acc b) else r.ckok } := by
  rcases positionRule_cases idx with ⟨rfl, -⟩ | ⟨rfl, -⟩ | ⟨rfl, -⟩ | ⟨rfl, -⟩ | ⟨rfl, -⟩ | ⟨rfl, -⟩ | ⟨rfl, -⟩ |
    ⟨rfl, -⟩ | ⟨rfl, -⟩ | ⟨rfl, -⟩ | ⟨outside, e⟩
  iterate 3 exact verify_sameFields _ b r
  iterate 6 exact ⟨rfl, rfl, rfl, rfl, rfl⟩
  · exact posTerminator_sameFields b r
  · have ne (k : BitVec 4) (small : ¬ 10#4 ≤ k) : idx ≠ k := fun h => small (h ▸ outside)
    rw [e]
    refine ⟨?_, ?_, ?_, ?_, ?_⟩ <;> exact (if_neg (ne _ (by decide))).symm

/-- Settles O23: a `FEED` runs the rule of its position, and an operation that feeds no byte resets the cursor at
most. -/
theorem fieldRegistersWrittenAtTheirPositions : Obligations.FieldRegistersWrittenAtTheirPositions := by
  refine ⟨fun b s t h => ?_, fun i s t noByte h => ?_⟩
  · rw [exec_feed] at h
    cases h
    have ckok : checksumOk (s.rx.acc + b.setWidth 16) = decide (s.rx.acc + b.setWidth 16 = 0#16) :=
      Bool.beq_eq_decide_eq _ _
    rw [← ckok]
    exact positionRule_fields s.rx.idx b (countByte s.rx)
  · rcases exec_noByte_rx noByte h with e | ⟨-, e⟩ <;> rw [e] <;> exact ⟨rfl, rfl, rfl, rfl, rfl⟩

/-! ### The counters at their wrap -/

theorem verify_nbytes_update (expected b : Byte) (n : Counter) (r : RxRegs) :
    verify expected b { r with nbytes := n } = { verify expected b r with nbytes := n } := by
  rw [verify_eq_ite, verify_eq_ite]
  split_ifs <;> rfl

theorem posTerminator_nbytes_update (b : Byte) (n : Counter) (r : RxRegs) :
    posTerminator b { r with nbytes := n } = ({ (posTerminator b r).1 with nbytes := n }, (posTerminator b r).2) := by
  unfold posTerminator
  split_ifs <;> rfl

/-- No rule reads `NBYTES` (R29). -/
theorem positionRule_nbytes_update (idx : BitVec 4) (b : Byte) (n : Counter) (r : RxRegs) :
    positionRule idx b { r with nbytes := n } =
      ({ (positionRule idx b r).1 with nbytes := n }, (positionRule idx b r).2) := by
  rcases positionRule_cases idx with ⟨-, e⟩ | ⟨-, e⟩ | ⟨-, e⟩ | ⟨-, e⟩ | ⟨-, e⟩ | ⟨-, e⟩ | ⟨-, e⟩ | ⟨-, e⟩ | ⟨-, e⟩ |
    ⟨-, e⟩ | ⟨-, e⟩ <;> rw [e]
  · exact congrArg (·, false) (verify_nbytes_update Config.START b n r)
  · exact congrArg (·, false) (verify_nbytes_update Config.VER b n r)
  · exact congrArg (·, false) (verify_nbytes_update Config.LEN b n r)
  iterate 6 rfl
  · exact posTerminator_nbytes_update b n r
  · rfl

/-- A `FEED` at another byte count does the same but for that count (R29, R210). -/
theorem feedByte_nbytes_update (b : Byte) (c : Counter) (s : State) :
    feedByte b { s with rx := { s.rx with nbytes := c } } =
      { feedByte b s with rx := { (feedByte b s).rx with nbytes := c + 1#32 } } := by
  have rule := positionRule_nbytes_update s.rx.idx b (c + 1#32) (countByte s.rx)
  rw [feedByte, consume]
  exact (congrArg (fun x => respond (Response.result x.2) { s with rx := x.1 }) rule)

/-- Settles O25: no rule reads `NBYTES`, so that its wrap shows in nothing else; a completion and a framing error are
the table's, and `FFFFFFFF + 1` is 0. -/
theorem countersWrapSilently : Obligations.CountersWrapSilently := by
  have wrap : 0xFFFFFFFF#32 + 1 = 0 := by decide
  refine ⟨fun b c s t u full ht hu => ?_, fun s full pos => ?_, fun b s e full raised framing => ?_⟩
  · rw [exec_feed] at ht hu
    cases ht
    cases hu
    have count : (feedByte b s).rx.nbytes = 0 := by
      rw [feedByte_rx, positionRule_nbytes, countByte_nbytes, full]
      exact wrap
    rw [feedByte_nbytes_update b c s]
    exact congrArg (fun n => { feedByte b s with rx := { (feedByte b s).rx with nbytes := n } }) count
  · have row := terminatorPositionRow 0xEF#8 s pos
    rw [if_pos rfl, full, wrap] at row
    exact (exec_eq_of_fedBytes rfl rfl s).trans row
  · have effect := framingErrorEffect b s e raised framing
    rwa [full, wrap] at effect

/-! ### The cursor -/

/-- Settles O26: a byte moves the cursor as `ByteOutcome.moves` says, and an operation that feeds none and is no
`RXRESET` leaves the receive side alone. -/
theorem idxNeverWraps : Obligations.IdxNeverWraps := by
  refine ⟨fun b s t h => ?_, fun i s t noByte notReset h => ?_⟩
  · rw [exec_feed] at h
    cases h
    rcases (feedByte_outcome b s).moves with
      ⟨outside, idx⟩ | ⟨inside, idx, nerrs⟩ | ⟨hunting, idx, nerrs⟩ | ⟨pos, idx, nerrs⟩
    · exact ⟨fun _ => idx, fun inside => absurd inside (not_le_nine_of_outside outside)⟩
    · exact ⟨fun outside => absurd inside (not_le_nine_of_outside outside), fun _ => .inl ⟨by bv_omega, nerrs⟩⟩
    · have ne9 : s.rx.idx ≠ 9#4 := by bv_omega
      exact ⟨fun outside => by bv_omega, fun _ => .inr ⟨nerrs, idx.imp_right (⟨·, ne9⟩)⟩⟩
    · exact ⟨fun outside => by bv_omega, fun _ => .inr ⟨nerrs, .inl idx⟩⟩
  · rcases exec_noByte_rx noByte h with e | ⟨reset, -⟩
    · rw [e]
    · exact absurd reset notReset

/-! ### Errors counted and errors raised -/

theorem countP_framing_of_matched {b : Byte} {r : RxRegs} (matched : ¬ FixedByteMismatch b r) :
    (byteEvent b r).toList.countP Event.isFraming = 0 :=
  List.countP_eq_zero.2 fun e mem framing => matched ((exists_framing_iff b r).1 ⟨e, Option.mem_toList.1 mem, framing⟩)

/-- A byte counts an error exactly when it raises a framing error (R31, R190). -/
theorem feedByte_nerrs (b : Byte) (s : State) :
    (feedByte b s).rx.nerrs =
      s.rx.nerrs + BitVec.ofNat 32 ((byteEvent b s.rx).toList.countP Event.isFraming) := by
  have counted := positionRule_nerrs s.rx.idx b (countByte s.rx)
  by_cases mismatch : FixedByteMismatch b s.rx
  · obtain ⟨e, raised, framing⟩ := (exists_framing_iff b s.rx).2 mismatch
    rw [raised, Option.toList_some, List.countP_singleton, framing]
    exact counted.trans (if_pos mismatch)
  · rw [countP_framing_of_matched mismatch, BitVec.add_zero]
    exact counted.trans (if_neg mismatch)

theorem feedBytes_nerrs (bs : List Byte) (s : State) :
    (feedBytes bs s).rx.nerrs = s.rx.nerrs + BitVec.ofNat 32 ((byteEvents bs s).countP Event.isFraming) := by
  induction bs generalizing s with
  | nil => simp [byteEvents]
  | cons b bs ih =>
    rw [feedBytes_cons, ih, feedByte_nerrs, byteEvents, List.countP_append, BitVec.ofNat_add, BitVec.add_assoc]

/-- The events of an operation that feeds bytes are those of its bytes (R190). -/
theorem events_of_fedBytes {i : Instr} (bytes : fedBytes i ≠ []) (s : State) :
    events i s = byteEvents (fedBytes i) s := by
  cases i
  case nop | fill | emit | rxreset | setack | rsv6 | rsv7 => exact absurd rfl bytes
  all_goals rfl

/-- The events of an operation that feeds no byte are refusals (R195). -/
theorem events_of_noByte {i : Instr} (noByte : fedBytes i = []) (s : State) :
    ∀ e ∈ events i s, e = .refEmit ∨ e = .refRsv := by
  cases i
  case nop | fill | rxreset | setack => simp [events]
  case emit => cases valid : s.tx.txvalid <;> simp [events, valid]
  case rsv6 | rsv7 => simp [events]
  all_goals exact absurd noByte (List.cons_ne_nil _ _)

theorem countP_framing_of_noByte {i : Instr} (noByte : fedBytes i = []) (s : State) :
    (events i s).countP Event.isFraming = 0 := by
  refine List.countP_eq_zero.2 fun e mem => ?_
  rcases events_of_noByte noByte s e mem with rfl | rfl <;> decide

/-- Settles O29: an operation that feeds bytes adds up the errors of its bytes; the events of the others are no framing
errors. -/
theorem errorCountFollowsEvents : Obligations.ErrorCountFollowsEvents := by
  intro i s t h
  by_cases noByte : fedBytes i = []
  · rw [countP_framing_of_noByte noByte, BitVec.add_zero]
    rcases exec_noByte_rx noByte h with e | ⟨-, e⟩ <;> rw [e]
    rfl
  · rw [exec_of_fedBytes noByte] at h
    cases h
    rw [events_of_fedBytes noByte]
    exact feedBytes_nerrs (fedBytes i) s

end Sys2Proof.Machine
end

section
/-! Frames and independence of the two sides (20_memory.md R61, 10_state.md R36 (f)): what every operation makes of the
transmit side, of the receive side, of the pending inputs and of the responses. -/

namespace Sys2Proof.Machine

/-! ### Runs of operations -/

/-- A run of one operation more is that operation and then the run. -/
theorem runOps_cons_next {i : Instr} {is : List Instr} {s t : State} (h : runOps (i :: is) s = .next t) :
    ∃ u, exec i s = .next u ∧ runOps is u = .next t := by
  obtain ⟨u, hu⟩ := exec_total i s
  exact ⟨u, hu, (runOps_cons hu).symm.trans h⟩

theorem runOps_total (ops : List Instr) (s : State) : ∃ t, runOps ops s = .next t := by
  induction ops generalizing s with
  | nil => exact ⟨s, rfl⟩
  | cons i is ih =>
    obtain ⟨u, hu⟩ := exec_total i s
    exact runOps_cons hu ▸ ih u

theorem runOps_append {is : List Instr} {s u : State} (h : runOps is s = .next u) (js : List Instr) :
    runOps (is ++ js) s = runOps js u := by
  induction is generalizing s with
  | nil =>
    cases h
    rfl
  | cons i is ih =>
    obtain ⟨v, hv, h⟩ := runOps_cons_next h
    rw [List.cons_append, runOps_cons hv, ih h]

/-- What every operation of a run keeps, the run keeps. -/
theorem runOps_keeps {P : State → Prop} {ops : List Instr}
    (keeps : ∀ i ∈ ops, ∀ s t, P s → exec i s = .next t → P t) {s t : State} (start : P s)
    (h : runOps ops s = .next t) : P t := by
  induction ops generalizing s with
  | nil =>
    cases h
    exact start
  | cons i is ih =>
    obtain ⟨u, hu, h⟩ := runOps_cons_next h
    rw [List.forall_mem_cons] at keeps
    exact ih keeps.2 (keeps.1 s u start hu) h

/-! ### One operation and the two sides -/

/-- Only `FILL` and `SETACK` write the transmit side (R61). -/
theorem exec_tx_cases {i : Instr} {s t : State} (h : exec i s = .next t) :
    ((∀ op hi lo, i ≠ .fill op hi lo) ∧ (∀ v, i ≠ .setack v) ∧ t.tx = s.tx) ∨
    (∃ op hi lo, i = .fill op hi lo ∧ t.tx = fillRegs op hi lo s.tx) ∨
    (∃ v, i = .setack v ∧ t.tx = { s.tx with ackreq := v }) := by
  rcases exec_cases h with
    ⟨bytes, rfl⟩ | ⟨op, hi, lo, rfl, rfl⟩ | ⟨v, rfl, rfl⟩ | ⟨rfl, -, rfl⟩ | ⟨refused, rfl⟩ | ⟨rfl, rfl⟩ | ⟨rfl, rfl⟩
  · refine .inl ⟨?_, ?_, (feedBytes_frame _ s).1⟩
    · rintro op hi lo rfl
      exact bytes rfl
    · rintro v rfl
      exact bytes rfl
  · exact .inr (.inl ⟨op, hi, lo, rfl, rfl⟩)
  · exact .inr (.inr ⟨v, rfl, rfl⟩)
  · exact .inl ⟨by simp, by simp, rfl⟩
  · rcases refused with ⟨rfl, -⟩ | rfl | rfl <;> exact .inl ⟨by simp, by simp, rfl⟩
  · exact .inl ⟨by simp, by simp, rfl⟩
  · exact .inl ⟨by simp, by simp, rfl⟩

/-- No operation touches the inputs still to come. -/
theorem exec_pins {i : Instr} {s t : State} (h : exec i s = .next t) : t.pins = s.pins := by
  rcases exec_cases h with
    ⟨-, rfl⟩ | ⟨op, hi, lo, -, rfl⟩ | ⟨v, -, rfl⟩ | ⟨-, -, rfl⟩ | ⟨-, rfl⟩ | ⟨-, rfl⟩ | ⟨-, rfl⟩
  · exact (feedBytes_frame _ s).2
  all_goals rfl

/-- An operation that feeds no byte and is no `RXRESET` leaves the receive side alone (R61). -/
theorem exec_rx_eq {i : Instr} {s t : State} (noByte : fedBytes i = []) (notReset : i ≠ .rxreset)
    (h : exec i s = .next t) : t.rx = s.rx :=
  (exec_noByte_rx noByte h).resolve_right fun reset => notReset reset.1

/-- An operation that feeds bytes leaves the transmit side alone (R61). -/
theorem exec_tx_eq_of_fedBytes {i : Instr} {s t : State} (bytes : fedBytes i ≠ []) (h : exec i s = .next t) :
    t.tx = s.tx := by
  rw [exec_of_fedBytes bytes] at h
  cases h
  exact (feedBytes_frame _ s).1

/-- Settles O45: these operations feed no byte and are no `RXRESET`, and of the transmit side only `SETACK` and `FILL`
write anything. -/
theorem transmitOperationsFrame : Obligations.TransmitOperationsFrame := by
  refine fun i s t h => ⟨fun idle => ?_, ?_, ?_⟩
  · rcases exec_tx_cases h with ⟨-, -, tx⟩ | ⟨op, hi, lo, rfl, -⟩ | ⟨v, rfl, -⟩
    · rcases idle with rfl | rfl | rfl | rfl <;> exact ⟨exec_rx_eq rfl (by simp) h, tx, exec_pins h⟩
    · simp at idle
    · simp at idle
  · rintro v rfl
    cases h
    exact ⟨rfl, rfl, rfl, rfl⟩
  · rintro op hi lo rfl
    cases h
    exact ⟨rfl, rfl, rfl⟩

/-- Settles O46: a receive operation is a run of received bytes or the cursor reset. -/
theorem receiveOperationsFrame : Obligations.ReceiveOperationsFrame := by
  rintro i s t h (rfl | bytes)
  · cases h
    exact ⟨rfl, rfl, fun _ => ⟨rfl, rfl, rfl, rfl, rfl, rfl, rfl, rfl⟩⟩
  · refine ⟨exec_tx_eq_of_fedBytes bytes h, exec_pins h, ?_⟩
    rintro rfl
    exact absurd rfl bytes

/-! ### Two states -/

/-- What received bytes make of the receive side depends on the receive side alone (R61). -/
theorem feedBytes_rx_congr (bs : List Byte) {s₁ s₂ : State} (rx : s₁.rx = s₂.rx) :
    (feedBytes bs s₁).rx = (feedBytes bs s₂).rx := by
  induction bs generalizing s₁ s₂ with
  | nil => exact rx
  | cons b bs ih => exact ih (by rw [feedByte_rx, feedByte_rx, rx])

/-- Received bytes are answered by the receive side alone (R39, R61). -/
theorem feedBytes_trace_congr (bs : List Byte) {s₁ s₂ : State} (rx : s₁.rx = s₂.rx) (trace : s₁.trace = s₂.trace) :
    (feedBytes bs s₁).trace = (feedBytes bs s₂).trace := by
  induction bs generalizing s₁ s₂ with
  | nil => exact trace
  | cons b bs ih =>
    exact ih (by rw [feedByte_rx, feedByte_rx, rx]) (by rw [feedByte_trace, feedByte_trace, rx, trace])

theorem exec_rx_congr {i : Instr} {s₁ s₂ t₁ t₂ : State} (h₁ : exec i s₁ = .next t₁) (h₂ : exec i s₂ = .next t₂)
    (rx : s₁.rx = s₂.rx) : t₁.rx = t₂.rx := by
  by_cases noByte : fedBytes i = []
  · by_cases reset : i = .rxreset
    · subst reset
      cases h₁
      cases h₂
      exact congrArg cursorReset rx
    · rw [exec_rx_eq noByte reset h₁, exec_rx_eq noByte reset h₂, rx]
  · rw [exec_of_fedBytes noByte] at h₁ h₂
    cases h₁
    cases h₂
    exact feedBytes_rx_congr _ rx

theorem exec_tx_congr {i : Instr} {s₁ s₂ t₁ t₂ : State} (h₁ : exec i s₁ = .next t₁) (h₂ : exec i s₂ = .next t₂)
    (tx : s₁.tx = s₂.tx) : t₁.tx = t₂.tx := by
  rcases exec_tx_cases h₁ with ⟨notFill, notSetack, e⟩ | ⟨op, hi, lo, rfl, e⟩ | ⟨v, rfl, e⟩
  · rcases exec_tx_cases h₂ with ⟨-, -, e₂⟩ | ⟨op, hi, lo, fill, -⟩ | ⟨v, setack, -⟩
    · rw [e, e₂, tx]
    · exact absurd fill (notFill op hi lo)
    · exact absurd setack (notSetack v)
  · cases h₂
    rw [e, tx]
    rfl
  · cases h₂
    rw [e, tx]
    rfl

/-- Settles O47: by the two congruences; an operation that feeds a byte or resets the cursor leaves the transmit side
alone, and every other one the receive side. -/
theorem sidesAreIndependent : Obligations.SidesAreIndependent := by
  refine fun i s₁ s₂ t₁ t₂ h₁ h₂ => ⟨exec_rx_congr h₁ h₂, exec_tx_congr h₁ h₂, ?_⟩
  by_cases noByte : fedBytes i = []
  · rcases exec_noByte_rx noByte h₁ with rx | ⟨rfl, -⟩
    · exact .inr rx
    · cases h₁
      exact .inl rfl
  · exact .inl (exec_tx_eq_of_fedBytes noByte h₁)

/-! ### The bytes of `TXBUF` before the first `FILL` -/

/-- Two states that differ at most in the bytes of `TXBUF`, and in those only while no `FILL` has been performed
(U3). -/
structure AgreeButUnfilled (s₁ s₂ : State) : Prop where
  rx : s₁.rx = s₂.rx
  trace : s₁.trace = s₂.trace
  ackreq : s₁.tx.ackreq = s₂.tx.ackreq
  txvalid : s₁.tx.txvalid = s₂.tx.txvalid
  buf : s₁.tx.txvalid = true → s₁.tx.buf = s₂.tx.buf

theorem AgreeButUnfilled.status_eq {s₁ s₂ : State} (h : AgreeButUnfilled s₁ s₂) : status s₁ = status s₂ := by
  simp only [status, h.rx, h.ackreq, h.txvalid]

/-- Every operation answers two such states alike and keeps them such: `FILL` writes the same bytes in both, and `EMIT`
shows the bytes of a filled buffer only. -/
theorem exec_agreeButUnfilled {i : Instr} {s₁ s₂ t₁ t₂ : State} (agree : AgreeButUnfilled s₁ s₂)
    (h₁ : exec i s₁ = .next t₁) (h₂ : exec i s₂ = .next t₂) : AgreeButUnfilled t₁ t₂ := by
  have rx' := exec_rx_congr h₁ h₂ agree.rx
  obtain ⟨rx, trace, ackreq, txvalid, buf⟩ := agree
  have answered (r : Response) : s₁.trace ++ [r] = s₂.trace ++ [r] := congrArg (· ++ [r]) trace
  rcases exec_cases h₁ with
    ⟨bytes, rfl⟩ | ⟨op, hi, lo, rfl, rfl⟩ | ⟨v, rfl, rfl⟩ | ⟨rfl, valid, rfl⟩ | ⟨refused, rfl⟩ | ⟨rfl, rfl⟩ | ⟨rfl, rfl⟩
  · rw [exec_of_fedBytes bytes] at h₂
    cases h₂
    have tx₁ := (feedBytes_frame (fedBytes i) s₁).1
    have tx₂ := (feedBytes_frame (fedBytes i) s₂).1
    exact ⟨rx', feedBytes_trace_congr _ rx trace, by rw [tx₁, tx₂, ackreq], by rw [tx₁, tx₂, txvalid],
      by rw [tx₁, tx₂]; exact buf⟩
  · cases h₂
    exact ⟨rx', answered _, ackreq, rfl, fun _ => congrArg (fun k => encodedFrame op (ackByte k) hi lo) ackreq⟩
  · cases h₂
    exact ⟨rx', answered _, rfl, txvalid, buf⟩
  · rw [exec_emit_performed (txvalid.symm.trans valid)] at h₂
    cases h₂
    refine ⟨rx', ?_, ackreq, txvalid, buf⟩
    rw [txWrite_trace, txWrite_trace, trace, buf valid]
  · rw [txvalid] at refused
    rw [exec_of_isRefused refused] at h₂
    cases h₂
    exact ⟨rx', answered _, ackreq, txvalid, buf⟩
  · cases h₂
    exact ⟨rx', answered _, ackreq, txvalid, buf⟩
  · cases h₂
    exact ⟨rx', answered _, ackreq, txvalid, buf⟩

theorem runOps_agreeButUnfilled (ops : List Instr) {s₁ s₂ t₁ t₂ : State} (agree : AgreeButUnfilled s₁ s₂)
    (h₁ : runOps ops s₁ = .next t₁) (h₂ : runOps ops s₂ = .next t₂) : AgreeButUnfilled t₁ t₂ := by
  induction ops generalizing s₁ s₂ with
  | nil =>
    cases h₁
    cases h₂
    exact agree
  | cons i is ih =>
    obtain ⟨u₁, e₁, h₁⟩ := runOps_cons_next h₁
    obtain ⟨u₂, e₂, h₂⟩ := runOps_cons_next h₂
    exact ih (exec_agreeButUnfilled agree e₁ e₂) h₁ h₂

/-- Settles O48: the run keeps the agreement, which gives the responses and the status. -/
theorem unfilledBufferIsUnobservable : Obligations.UnfilledBufferIsUnobservable := by
  intro ops s₁ s₂ t₁ t₂ rx trace ackreq invalid₁ invalid₂ h₁ h₂
  have agree : AgreeButUnfilled s₁ s₂ :=
    ⟨rx, trace, ackreq, invalid₁.trans invalid₂.symm, fun valid => absurd (invalid₁.symm.trans valid) (by decide)⟩
  have after := runOps_agreeButUnfilled ops agree h₁ h₂
  exact ⟨after.trace, after.status_eq⟩

/-! ### Responses -/

/-- Settles O44: by the cases of `exec_cases`, one response each, and for received bytes one a byte. -/
theorem responsesByOperation : Obligations.ResponsesByOperation := by
  refine fun i s t h => ⟨?_, fun b fed => ?_⟩
  · rcases exec_cases h with
      ⟨bytes, rfl⟩ | ⟨op, hi, lo, rfl, rfl⟩ | ⟨v, rfl, rfl⟩ | ⟨rfl, valid, rfl⟩ | ⟨refused, rfl⟩ | ⟨rfl, rfl⟩ |
      ⟨rfl, rfl⟩
    · have one : 1 ≤ (fedBytes i).length := List.length_pos_iff.2 bytes
      refine ⟨_, feedBytes_trace _ s, by rw [length_feedResponses, max_eq_right one], fun r mem => ?_⟩
      rw [eq_result_of_mem_feedResponses mem]
      cases r.done
      · exact .inl rfl
      · exact .inr (.inl ⟨rfl, bytes⟩)
    case inr.inr.inr.inl => exact ⟨_, rfl, rfl, by simp [Response.emitted, valid]⟩
    case inr.inr.inr.inr.inl =>
      have noByte : fedBytes i = [] := by rcases refused with ⟨rfl, -⟩ | rfl | rfl <;> rfl
      exact ⟨_, rfl, by simp [noByte], by simp [Response.refusal, refused]⟩
    all_goals exact ⟨_, rfl, rfl, by simp [Response.quiet]⟩
  · rw [exec_oneByte fed] at h
    cases h
    exact (feedByte_outcome b s).done_iff

end Sys2Proof.Machine
end

section
/-! The frames that the transmit side makes: the sum and the checksum as integers (30_encoding.md R78), the frame in
the buffer (40_tx_framer.md R105 to R107) and the frame that an `EMIT` sends (20_memory.md R60). -/

namespace Sys2Proof.Machine

/-! ### The checksum as an integer -/

theorem toNat_highByte (p : Half) : (highByte p).toNat = p.toNat / 256 := by
  have := p.isLt
  rw [highByte, BitVec.extractLsb'_toNat, Nat.shiftRight_eq_div_pow]
  omega

theorem toNat_lowByte (p : Half) : (lowByte p).toNat = p.toNat % 256 := by
  rw [lowByte, BitVec.extractLsb'_toNat, Nat.shiftRight_eq_div_pow]
  omega

section
variable (op ack hi lo : Byte)

/-- The sum of six bytes is far below `2^16`, so the modular sum is the integer sum (R78). -/
theorem toNat_frameSum : (frameSum op ack hi lo).toNat = 0x0105 + op.toNat + ack.toNat + hi.toNat + lo.toNat := by
  have := op.isLt
  have := ack.isLt
  have := hi.isLt
  have := lo.isLt
  simp only [frameSum, addByte, zext16, Config.ACC_INIT, BitVec.toNat_add, BitVec.toNat_setWidth, BitVec.toNat_ofNat]
  omega

/-- The checksum is the sum's distance to `2^16` (R78). -/
theorem toNat_checksum :
    (checksum op ack hi lo).toNat = 0x10000 - (0x0105 + op.toNat + ack.toNat + hi.toNat + lo.toNat) := by
  have := op.isLt
  have := ack.isLt
  have := hi.isLt
  have := lo.isLt
  rw [checksum, BitVec.toNat_sub, toNat_frameSum, BitVec.toNat_ofNat]
  omega

end

/-- Settles O5: the integer values of `toNat_frameSum` and `toNat_checksum`, with each byte at most 255. -/
theorem checksumRanges : Obligations.ChecksumRanges := by
  intro op ack hi lo
  have sum := toNat_frameSum op ack hi lo
  have ck := toNat_checksum op ack hi lo
  have high : ((checksum op ack hi lo).extractLsb' 8 8).toNat = _ := toNat_highByte (checksum op ack hi lo)
  have := op.isLt
  have := ack.isLt
  have := hi.isLt
  have := lo.isLt
  refine ⟨sum, by omega, by omega, by omega, by omega, fun zero => ?_, fun small => ⟨by omega, by omega, ?_⟩⟩
  · rw [zero, BitVec.toNat_ofNat] at high
    omega
  · simp only [← BitVec.toNat_inj, high, BitVec.toNat_ofNat]
    omega

/-! ### The frame in the buffer -/

/-- The encoded frame is complete and well-formed: its own checksum makes the sum vanish (R76, R77, R106). -/
theorem completeFrame_encodedFrame (op ack hi lo : Byte) : completeFrame (encodedFrame op ack hi lo) = true := by
  have sum : checksumOk (receivedSum op ack hi lo (highByte (checksum op ack hi lo))
      (lowByte (checksum op ack hi lo))) = true := by
    rw [receivedSum_checksum]
    rfl
  exact congrArg (· && true) sum

/-- Only `FILL` writes `TXBUF` and `TXVALID` (R105). -/
theorem exec_buf_eq {i : Instr} {s t : State} (notFill : ∀ op hi lo, i ≠ .fill op hi lo) (h : exec i s = .next t) :
    t.tx.buf = s.tx.buf ∧ t.tx.txvalid = s.tx.txvalid := by
  rcases exec_tx_cases h with ⟨-, -, tx⟩ | ⟨op, hi, lo, fill, -⟩ | ⟨v, -, tx⟩
  · rw [tx]
    exact ⟨rfl, rfl⟩
  · exact absurd fill (notFill op hi lo)
  · rw [tx]
    exact ⟨rfl, rfl⟩

/-- Settles O8: `FILL` leaves the encoded frame in the buffer, and only `FILL` writes it. -/
theorem filledFrameStaysUntilNextFill : Obligations.FilledFrameStaysUntilNextFill := by
  refine ⟨fun op hi lo s t h => ?_, fun i s t notFill h => exec_buf_eq notFill h⟩
  rw [exec_fill] at h
  cases h
  exact ⟨completeFrame_encodedFrame op _ hi lo, rfl, rfl, rfl, rfl⟩

/-! ### The frame sent -/

/-- The ten bytes of an encoded frame, its checksum computed over the integers (R107). -/
theorem encodedFrame_toList (op ack hi lo : Byte) :
    (encodedFrame op ack hi lo).toList =
      [0x7E#8, 0xFF#8, 0x06#8, op, ack, hi, lo, BitVec.ofNat 8 ((checksum op ack hi lo).toNat / 256),
        BitVec.ofNat 8 ((checksum op ack hi lo).toNat % 256), 0xEF#8] := by
  rw [← toNat_highByte, ← toNat_lowByte, BitVec.ofNat_toNat, BitVec.ofNat_toNat, BitVec.setWidth_eq, BitVec.setWidth_eq]
  rfl

/-- Settles O9: `SETACK` decides the ack byte, `FILL` and `EMIT` send the encoded frame. -/
theorem emittedFrameClosedForm : Obligations.EmittedFrameClosedForm := by
  intro op hi lo k s ck
  refine ⟨_, encodedFrame op (ackByte k) hi lo, (runOps_cons (exec_setack s k)).trans (runOps_fill_emit op hi lo _),
    lastResponse_respond _ _, ?_⟩
  have ackByte_eq : ackByte k = BitVec.ofNat 8 k.toNat := by cases k <;> rfl
  have value : (checksum op (ackByte k) hi lo).toNat = ck := by
    have small : (ackByte k).toNat = k.toNat := by cases k <;> rfl
    rw [toNat_checksum, small]
    omega
  rw [encodedFrame_toList, value, ackByte_eq]

/-- Settles O13: the operations between keep the filled buffer and `TXVALID`, so the `EMIT` is performed and sends that
buffer. -/
theorem emitSendsMostRecentFill : Obligations.EmitSendsMostRecentFill := by
  intro op hi lo between s noFill
  have filled := exec_fill s op hi lo
  obtain ⟨u, hu⟩ := runOps_total between (respond Response.quiet { s with tx := fillRegs op hi lo s.tx })
  have kept : u.tx.buf = encodedFrame op (ackByte s.tx.ackreq) hi lo ∧ u.tx.txvalid = true := by
    refine runOps_keeps (P := fun v => v.tx.buf = _ ∧ v.tx.txvalid = true) (fun i mem v w held h => ?_) ⟨rfl, rfl⟩ hu
    obtain ⟨buf, valid⟩ := exec_buf_eq (noFill i mem) h
    exact ⟨buf.trans held.1, valid.trans held.2⟩
  obtain ⟨buf, valid⟩ := kept
  refine ⟨txWrite u.tx.buf u, ?_, ?_⟩
  · rw [List.cons_append, runOps_cons filled, runOps_append hu, runOps_cons (exec_emit_performed valid), runOps_nil]
  · rw [buf]
    exact lastResponse_respond _ u

end Sys2Proof.Machine
end

section
/-! One step: which operation it runs (42_system_ops.md R150, R155), the hardware reset (R152), a table word placed as
the next input, and the invariant of 10_state.md R36 that every step keeps. -/

namespace Sys2Proof.Machine

/-! ### What a step runs -/

/-- Settles O32: `FRAME` and the ten `FEED`s are the same fold over the ten bytes. -/
theorem frameIsTenFeeds : Obligations.FrameIsTenFeeds := by
  intro op ack hi lo ckh ckl s
  exact (runOps_feeds (frameBytes op ack hi lo ckh ckl).toList s).symm

/-- Settles O41: `NOP` and the reserved codes are one response each, and a word with `opc` 6 or 7 decodes to one of
them. -/
theorem nopAndReservedResults : Obligations.NopAndReservedResults := by
  refine fun s => ⟨exec_nop s, fun w rest pins => step_cons pins, fun opc a b c reserved => ?_, exec_rsv6 s,
    exec_rsv7 s⟩
  obtain rfl | rfl : opc = 6#3 ∨ opc = 7#3 := by bv_omega
  · exact ⟨.rsv6, congrArg _ (decodeCmd_rsv6 a b c), exec_rsv6 s⟩
  · exact ⟨.rsv7, congrArg _ (decodeCmd_rsv7 a b c), exec_rsv7 s⟩

/-- Settles O50: such an edge is a hardware reset. -/
theorem resetWinsOverCommand : Obligations.ResetWinsOverCommand :=
  fun _ _ _ _ pins => step_resetEdge pins

/-- A frame value with the fixed bytes runs the frame that it decodes to. -/
theorem execInput_wire_ok {f : Wire} {i : Instr} (decoded : decodeWire f = .ok i) (s : State) :
    execInput (.wire f) s = exec i s := by
  simp only [execInput, decoded]

/-- Ten bytes that are no frame are received one by one. -/
theorem execInput_wire_error {f : Wire} {e : DecodeError} (decoded : decodeWire f = .error e) (s : State) :
    execInput (.wire f) s = .next (feedBytes (unpackFrame f).toList s) := by
  simp only [execInput, decoded, execTenBytes]

/-- Settles O51: the step takes the oldest input and acts on it by `execInput`. -/
theorem stepRunsDecodedInstruction : Obligations.StepRunsDecodedInstruction := by
  refine fun s rest => ⟨fun w i pins decoded => ?_, fun b i pins decoded => ?_, fun f i pins decoded => ?_,
    fun f e pins decoded => ?_, fun w pins => step_cons pins, step_nil⟩
  · cases decoded
    exact step_cons pins
  · cases decoded
    exact step_cons pins
  · exact (step_cons pins).trans (execInput_wire_ok decoded _)
  · rw [runOps_feeds]
    exact (step_cons pins).trans (execInput_wire_error decoded _)

/-! ### A table word placed as the next input -/

/-- The three kinds of table word that decode (log entry 9). -/
theorem decodeTableWord_cases {nbits w : Nat} {i : Instr} (h : decodeTableWord nbits w = some i) :
    (nbits = 8 ∧ i = decodeRx (tablePosition (BitVec.ofNat 8 w)) (BitVec.ofNat 8 w)) ∨
    (nbits = 80 ∧ decodeWire (BitVec.ofNat 80 w) = .ok i) ∨
    (nbits ≠ 8 ∧ nbits ≠ 80 ∧ i = decodeCmd (BitVec.ofNat 27 w)) := by
  obtain ⟨c, code, decoded⟩ : ∃ c, tableCode nbits w = .ok c ∧ (decode c).toOption = some i := by
    unfold decodeTableWord at h
    split at h
    next c code => exact ⟨c, code, h⟩
    next => cases h
  unfold tableCode at code
  split at code <;> split_ifs at code <;> cases code
  · cases decoded
    exact .inl ⟨rfl, rfl⟩
  · refine .inr (.inl ⟨rfl, ?_⟩)
    cases e : decodeWire (BitVec.ofNat 80 w) with
    | error _ => simp [decode, e, Except.toOption] at decoded
    | ok j => simpa [decode, e, Except.toOption] using decoded
  next notByte notWire _ =>
    cases decoded
    exact .inr (.inr ⟨notByte, notWire, rfl⟩)

theorem placeWord_command {nbits : Nat} (notByte : nbits ≠ 8) (notWire : nbits ≠ 80) (w : Nat) (s : State) :
    placeWord nbits w s = { s with pins := .edge false true (BitVec.ofNat 27 w) :: s.pins } := by
  unfold placeWord
  split
  · exact absurd rfl notByte
  · exact absurd rfl notWire
  · rfl

/-- Settles O52: by the three kinds of table word, each of which stands at the head of the pending inputs. -/
theorem fetchedWordRuns : Obligations.FetchedWordRuns := by
  intro s nbits w i h
  rcases decodeTableWord_cases h with ⟨rfl, rfl⟩ | ⟨rfl, decoded⟩ | ⟨notByte, notWire, rfl⟩
  · exact ⟨withIdx (tablePosition (BitVec.ofNat 8 w)) s, rfl, rfl, rfl, rfl, rfl, fun ne => absurd rfl ne⟩
  · exact ⟨s, execInput_wire_ok decoded s, rfl, rfl, rfl, rfl, fun _ => rfl⟩
  · refine ⟨s, ?_, rfl, rfl, rfl, rfl, fun _ => rfl⟩
    rw [State.withFetchWord, placeWord_command notByte notWire]
    rfl

/-! ### The invariant -/

/-- R36 (a), (b): the receive part of the invariant. -/
def RxInv (r : RxRegs) : Prop := r.idx ≤ 10#4 ∧ (r.idx ≤ 3#4 → r.acc = Config.ACC_INIT)

/-- R36 (d): the transmit part of the invariant. -/
def TxInv (t : TxRegs) : Prop :=
  t.txvalid = true → completeFrame t.buf = true ∧ (t.ack = 0x00#8 ∨ t.ack = 0x01#8)

theorem inv_iff (s : State) : Inv s ↔ RxInv s.rx ∧ TxInv s.tx := and_assoc.symm

theorem rxInv_cursorReset (r : RxRegs) : RxInv (cursorReset r) :=
  ⟨by simp, fun _ => rfl⟩

theorem ByteOutcome.rxInv {b : Byte} {r x : RxRegs} {done : Bool} (h : ByteOutcome b r x done) (inv : RxInv r) :
    RxInv x := by
  cases h with
  | verified fixed =>
    have hunting : r.idx ≤ 2#4 := by rcases fixed with ⟨pos, -⟩ | ⟨pos, -⟩ | ⟨pos, -⟩ <;> simp [pos]
    exact ⟨by bv_omega, fun _ => inv.2 (by bv_omega)⟩
  | framing _ => exact ⟨by dsimp only; split <;> decide, fun _ => rfl⟩
  | accepted _ lower upper idx => exact ⟨by bv_omega, fun early => absurd early (by bv_omega)⟩
  | completed _ _ => exact ⟨BitVec.le_refl _, fun early => absurd early (by decide : ¬ 10#4 ≤ 3#4)⟩
  | discarded _ => exact ⟨(by decide : 0#4 ≤ 10#4), fun _ => rfl⟩

theorem feedBytes_rxInv (bs : List Byte) {s : State} (inv : RxInv s.rx) : RxInv (feedBytes bs s).rx := by
  induction bs generalizing s with
  | nil => exact inv
  | cons b bs ih => exact ih ((feedByte_outcome b s).rxInv inv)

theorem exec_rxInv {i : Instr} {s t : State} (inv : RxInv s.rx) (h : exec i s = .next t) : RxInv t.rx := by
  by_cases noByte : fedBytes i = []
  · rcases exec_noByte_rx noByte h with rx | ⟨-, rx⟩ <;> rw [rx]
    · exact inv
    · exact rxInv_cursorReset s.rx
  · rw [exec_of_fedBytes noByte] at h
    cases h
    exact feedBytes_rxInv _ inv

/-- A filled buffer is a complete frame with an ack byte 0 or 1 (R105). -/
theorem txInv_fillRegs (op hi lo : Byte) (t : TxRegs) : TxInv (fillRegs op hi lo t) := by
  refine fun _ => ⟨completeFrame_encodedFrame op _ hi lo, ?_⟩
  rw [fillRegs_ack]
  cases t.ackreq
  · exact .inl rfl
  · exact .inr rfl

theorem exec_txInv {i : Instr} {s t : State} (inv : TxInv s.tx) (h : exec i s = .next t) : TxInv t.tx := by
  rcases exec_tx_cases h with ⟨-, -, tx⟩ | ⟨op, hi, lo, -, tx⟩ | ⟨v, -, tx⟩ <;> rw [tx]
  · exact inv
  · exact txInv_fillRegs op hi lo s.tx
  · exact inv

theorem exec_inv {i : Instr} {s t : State} (inv : Inv s) (h : exec i s = .next t) : Inv t := by
  rw [inv_iff] at inv ⊢
  exact ⟨exec_rxInv inv.1 h, exec_txInv inv.2 h⟩

/-- Settles O53: `IDX` is 0 with the preamble's accumulator, and `TXVALID` is 0. -/
theorem invariantAtReset : Obligations.InvariantAtReset :=
  ⟨by decide, fun _ => rfl, fun valid => absurd valid (by decide)⟩

/-- A step resets the registers, or runs one operation, or receives bytes, from the same registers with the input taken
(R155, R222). -/
theorem step_cases {s t : State} (h : step s = .next t) :
    ∃ u : State, u.tx = s.tx ∧ u.rx = s.rx ∧
      (t = hardReset u ∨ (∃ i, exec i u = .next t) ∨ ∃ bs, t = feedBytes bs u) := by
  cases pins : s.pins with
  | nil => exact ⟨s, rfl, rfl, .inr (.inl ⟨.nop, (step_nil pins).symm.trans h⟩)⟩
  | cons p rest =>
    rw [step_cons pins] at h
    refine ⟨{ s with pins := rest }, rfl, rfl, ?_⟩
    unfold execInput at h
    split at h
    next =>
      cases h
      exact .inl rfl
    next => exact .inr (.inl ⟨_, h⟩)
    next => exact .inr (.inl ⟨_, h⟩)
    next => exact .inr (.inl ⟨_, h⟩)
    next =>
      split at h
      next => exact .inr (.inl ⟨_, h⟩)
      next =>
        cases h
        exact .inr (.inr ⟨_, rfl⟩)

/-- Settles O54: the reset establishes the invariant, and every operation and every received byte keeps it. -/
theorem stepKeepsInvariant : Obligations.StepKeepsInvariant := by
  refine ⟨fun s t inv h => ?_, fun i s t inv h => exec_inv inv h⟩
  obtain ⟨u, tx, rx, rfl | ⟨i, run⟩ | ⟨bs, rfl⟩⟩ := step_cases h
  · exact invariantAtReset
  · have inv' : Inv u := by rwa [inv_iff, tx, rx, ← inv_iff]
    exact exec_inv inv' run
  · rw [inv_iff] at inv ⊢
    rw [(feedBytes_frame bs u).1, tx]
    exact ⟨feedBytes_rxInv bs (rx ▸ inv.1), inv.2⟩

end Sys2Proof.Machine
end

section
/-! A frame received whole (41_rx_state_machine.md R139, R140): the preamble from a hunting position, the seven bytes
behind it, and the round trip from `FILL` to the receive registers. -/

namespace Sys2Proof.Machine

/-! ### The frame -/

/-- The start marker moves every hunting position to position 1, from 1 and 2 at the cost of an error (R125). -/
theorem feedByte_start {s : State} (hunting : s.rx.idx ≤ 2#4) (fresh : s.rx.acc = Config.ACC_INIT) :
    feedByte Config.START s =
      { s with
        rx := { s.rx with
          idx := 1#4
          nbytes := s.rx.nbytes + 1#32
          nerrs := if s.rx.idx = 0#4 then s.rx.nerrs else s.rx.nerrs + 1#32 }
        trace := s.trace ++ [Response.result false] } := by
  have positions : s.rx.idx = 0#4 ∨ s.rx.idx = 1#4 ∨ s.rx.idx = 2#4 := by bv_omega
  rcases positions with pos | pos | pos
  · simp [feedByte, consume, respond, pos, posStart, verify, countByte]
  · simp [feedByte, consume, respond, pos, posVersion, verify, countByte, framingError, cursorReset, fresh]
  · simp [feedByte, consume, respond, pos, posLength, verify, countByte, framingError, cursorReset, fresh]

/-- The preamble is accepted from every hunting position (R140, R142). -/
theorem feedBytes_preamble {s : State} (hunting : s.rx.idx ≤ 2#4) (fresh : s.rx.acc = Config.ACC_INIT) :
    feedBytes [Config.START, Config.VER, Config.LEN] s =
      { s with
        rx := { s.rx with
          idx := 3#4
          nbytes := s.rx.nbytes + 3#32
          nerrs := if s.rx.idx = 0#4 then s.rx.nerrs else s.rx.nerrs + 1#32 }
        trace := s.trace ++ List.replicate 3 (Response.result false) } := by
  rw [feedBytes_cons, feedByte_start hunting fresh]
  simp [feedByte, consume, respond, posVersion, posLength, verify, countByte, BitVec.add_assoc]

/-- The six bytes behind the preamble and the terminator complete the frame (R126 to R132). -/
theorem feedBytes_body {s : State} (pos : s.rx.idx = 3#4) (op ack hi lo ckh ckl : Byte) :
    feedBytes [op, ack, hi, lo, ckh, ckl, Config.END] s =
      { s with
        rx := { s.rx with
          idx := 10#4
          acc := addByte (addHigh (addByte (addByte (addByte (addByte s.rx.acc op) ack) hi) lo) ckh) ckl
          rxop := op
          rxack := ack
          rxph := hi
          rxpl := lo
          ckok := checksumOk (addByte (addHigh (addByte (addByte (addByte (addByte s.rx.acc op) ack) hi) lo) ckh) ckl)
          nbytes := s.rx.nbytes + 7#32
          npkts := s.rx.npkts + 1#32 }
        trace := s.trace ++ (List.replicate 6 (Response.result false) ++ [Response.result true]) } := by
  simp [feedByte, pos, consume, respond, posOpcode, posAck, posParamHigh, posParamLow, posCheckHigh, posCheckLow,
    posTerminator, countByte, BitVec.add_assoc]

/-- The receive registers after a frame received whole: its fields, the sum with the checksum, the zero test, ten bytes
and one frame more, and an error more unless the cursor was at 0 (R139, R140). -/
def receivedRegs (op ack hi lo ckh ckl : Byte) (r : RxRegs) : RxRegs :=
  { r with
    idx := 10#4
    acc := receivedSum op ack hi lo ckh ckl
    rxop := op
    rxack := ack
    rxph := hi
    rxpl := lo
    ckok := checksumOk (receivedSum op ack hi lo ckh ckl)
    nbytes := r.nbytes + 10#32
    npkts := r.npkts + 1#32
    nerrs := if r.idx = 0#4 then r.nerrs else r.nerrs + 1#32 }

/-- The responses to a frame received whole: the tenth alone is `done`. -/
def receivedResponses : List Response := List.replicate 9 (Response.result false) ++ [Response.result true]

theorem lastResponse_of_receivedResponses {s : State} {trace : List Response}
    (received : s.trace = trace ++ receivedResponses) : lastResponse s = Response.result true := by
  rw [lastResponse, received, receivedResponses, ← List.append_assoc, List.getLast?_append]
  rfl

/-- A frame is received whole from every hunting position (R140). -/
theorem feedBytes_frameBytes {s : State} (hunting : s.rx.idx ≤ 2#4) (fresh : s.rx.acc = Config.ACC_INIT)
    (op ack hi lo ckh ckl : Byte) :
    feedBytes (frameBytes op ack hi lo ckh ckl).toList s =
      { s with rx := receivedRegs op ack hi lo ckh ckl s.rx, trace := s.trace ++ receivedResponses } := by
  have split : (frameBytes op ack hi lo ckh ckl).toList =
      [Config.START, Config.VER, Config.LEN] ++ [op, ack, hi, lo, ckh, ckl, Config.END] := rfl
  rw [split, feedBytes_append, feedBytes_preamble hunting fresh, feedBytes_body rfl]
  simp [receivedRegs, receivedResponses, fresh, receivedSum, frameSum, BitVec.add_assoc, List.replicate_succ]

/-- Settles O33: `FRAME` is its ten bytes received from position 0. -/
theorem frameReceivedWhole : Obligations.FrameReceivedWhole := by
  intro op ack hi lo ckh ckl s pos fresh sum
  have test : checksumOk sum = decide (sum = 0#16) := Bool.beq_eq_decide_eq _ _
  rw [exec_frame, feedBytes_frameBytes (pos ▸ by decide) fresh, receivedRegs, if_pos pos, ← test, List.append_assoc]
  rfl

/-- A frame with the four fixed bytes is these around its six others (R70). -/
theorem eq_frameBytes {f : Frame} (start : f[0] = Config.START) (ver : f[1] = Config.VER) (len : f[2] = Config.LEN)
    (terminator : f[9] = Config.END) : f = frameBytes f[3] f[4] f[5] f[6] f[7] f[8] := by
  refine Vector.ext fun k hk => ?_
  interval_cases k
  · exact start
  · exact ver
  · exact len
  iterate 6 rfl
  · exact terminator

/-- A complete frame has the four fixed bytes, and its sum with the checksum vanishes (R77). -/
theorem completeFrame_iff (f : Frame) :
    completeFrame f = true ↔ f[0] = Config.START ∧ f[1] = Config.VER ∧ f[2] = Config.LEN ∧ f[9] = Config.END ∧
      receivedSum f[3] f[4] f[5] f[6] f[7] f[8] = 0#16 := by
  simp only [completeFrame, wellFormedFrame, checksumOk, Bool.and_eq_true, beq_iff_eq, and_assoc]
  exact and_congr_right fun _ => and_congr_right fun _ => and_congr_right fun _ => And.comm

/-- A complete well-formed frame, received from a hunting position: its registers, with `CKOK` set (R131, R140). -/
theorem feedBytes_completeFrame {s : State} (hunting : s.rx.idx ≤ 2#4) (fresh : s.rx.acc = Config.ACC_INIT) {f : Frame}
    (complete : completeFrame f = true) :
    feedBytes f.toList s =
      { s with
        rx := { receivedRegs f[3] f[4] f[5] f[6] f[7] f[8] s.rx with ckok := true }
        trace := s.trace ++ receivedResponses } := by
  obtain ⟨start, ver, len, terminator, sum⟩ := (completeFrame_iff f).1 complete
  have received := feedBytes_frameBytes hunting fresh f[3] f[4] f[5] f[6] f[7] f[8]
  rw [← eq_frameBytes start ver len terminator] at received
  have ckok : checksumOk (receivedSum f[3] f[4] f[5] f[6] f[7] f[8]) = true := by rw [sum]; rfl
  rw [received, ← ckok]
  rfl

/-! ### Bytes that complete nothing -/

/-- With `idx` bytes of the sequence received and `len` more to come the last of them completes no frame: they do not
reach the end of the sequence, or they pass it and do not reach it a second time, or the first of them is discarded
outside the sequence (R133, R142, R229). -/
def Misses (idx len : Nat) : Prop :=
  idx + len ≤ 9 ∨ (3 ≤ idx ∧ idx ≤ 9 ∧ 11 ≤ idx + len ∧ idx + len ≤ 19) ∨ (idx = 10 ∧ 1 ≤ len ∧ len ≤ 10)

theorem ByteOutcome.misses {b : Byte} {r x : RxRegs} {done : Bool} (h : ByteOutcome b r x done) {len : Nat}
    (misses : Misses r.idx.toNat (len + 1)) : Misses x.idx.toNat len := by
  unfold Misses at *
  rcases h.moves with ⟨outside, idx⟩ | ⟨inside, idx, -⟩ | ⟨hunting, idx | idx, -⟩ | ⟨pos, idx, -⟩ <;> bv_omega

theorem feedBytes_misses (bs : List Byte) {s : State} (misses : Misses s.rx.idx.toNat bs.length) :
    (feedBytes bs s).rx.idx ≤ 9#4 := by
  induction bs generalizing s with
  | nil =>
    unfold Misses at misses
    rw [List.length_nil] at misses
    rw [feedBytes_nil]
    bv_omega
  | cons b bs ih => exact ih ((feedByte_outcome b s).misses misses)


theorem ByteOutcome.idx_le {b : Byte} {r x : RxRegs} {done : Bool} (h : ByteOutcome b r x done) :
    x.idx.toNat ≤ r.idx.toNat + 1 := by
  rcases h.moves with ⟨-, idx⟩ | ⟨-, idx, -⟩ | ⟨-, idx | idx, -⟩ | ⟨-, idx, -⟩ <;> bv_omega

/-- A byte that leaves the cursor within the sequence has completed nothing. -/
theorem ByteOutcome.not_done {b : Byte} {r x : RxRegs} {done : Bool} (h : ByteOutcome b r x done)
    (inside : x.idx ≤ 9#4) : done = false := by
  refine Bool.eq_false_iff.2 fun completed => ?_
  have complete := h.idx_of_done completed
  bv_omega

/-- The last byte of such a run is not `done`. -/
theorem lastResponse_of_misses {bs : List Byte} (nonempty : bs ≠ []) {s : State}
    (misses : Misses s.rx.idx.toNat bs.length) : (lastResponse (feedBytes bs s)).done = false := by
  have inside := feedBytes_misses bs misses
  obtain rfl | ⟨init, last, rfl⟩ := bs.eq_nil_or_concat'
  · exact absurd rfl nonempty
  · rw [feedBytes_append] at inside ⊢
    exact (feedByte_outcome last (feedBytes init s)).not_done inside

/-- Too few bytes for the end of the sequence complete nothing. -/
theorem feedResponses_of_short {bs : List Byte} {s : State} (short : s.rx.idx.toNat + bs.length ≤ 9) :
    ∀ r ∈ feedResponses bs s, r.done = false := by
  induction bs generalizing s with
  | nil => simp [feedResponses]
  | cons b bs ih =>
    rw [List.length_cons] at short
    have outcome := feedByte_outcome b s
    have further := outcome.idx_le
    refine List.forall_mem_cons.2 ⟨outcome.not_done (by bv_omega), ih (by omega)⟩

/-- Settles O37: the bytes before the frame and its ten pass the end of the sequence once and do not reach it again. -/
theorem truncatedFrameSwallowsNext : Obligations.TruncatedFrameSwallowsNext := by
  intro few f s short complete pos
  have misses : Misses s.rx.idx.toNat (few ++ f.toList).length := by
    have position : s.rx.idx.toNat = 3 := congrArg BitVec.toNat pos
    rw [List.length_append, Vector.length_toList]
    exact .inr (.inl (by omega))
  have inside := feedBytes_misses _ misses
  have nonempty : few ++ f.toList ≠ [] := fun h => by simpa using congrArg List.length h
  exact ⟨_, runOps_feeds _ s, lastResponse_of_misses nonempty misses, by bv_omega⟩

/-- Settles O34: from a hunting position the frame in the buffer is received whole; from 3 to 10 its ten bytes miss the
end of the sequence, the first of them discarded at 10. -/
theorem encodeReceiveRoundTrip : Obligations.EncodeReceiveRoundTrip := by
  refine ⟨fun op hi lo s hunting fresh => ?_, fun n lower upper => ?_⟩
  · have received := feedBytes_completeFrame (s := respond Response.quiet { s with tx := fillRegs op hi lo s.tx })
      hunting fresh (completeFrame_encodedFrame op (ackByte s.tx.ackreq) hi lo)
    refine ⟨_, _, exec_fill s op hi lo, (runOps_feeds _ _).trans (congrArg _ received), ?_⟩
    exact ⟨(List.append_assoc _ _ _).symm, rfl, rfl, rfl, rfl, rfl, rfl, rfl⟩
  · have inv : Inv { State.reset with rx := { RxRegs.reset with idx := n } } :=
      ⟨upper, fun _ => rfl, fun valid => absurd valid Bool.false_ne_true⟩
    have misses : Misses n.toNat 10 := by
      unfold Misses
      bv_omega
    exact ⟨0#8, 0#8, 0#8, _, _, _, inv, rfl, exec_fill _ _ _ _, runOps_feeds _ _,
      lastResponse_of_misses (List.cons_ne_nil _ _) misses⟩

end Sys2Proof.Machine
end

section
/-! Runs of bytes that are no valid frame (41_rx_state_machine.md R141 to R143): one byte of a frame changed, noise
while hunting, and garbage between a preamble and a fresh frame. -/

namespace Sys2Proof.Machine

/-! ### One byte changed -/

theorem toNat_receivedSum (op ack hi lo ckh ckl : Byte) :
    (receivedSum op ack hi lo ckh ckl).toNat =
      (0x0105 + op.toNat + ack.toNat + hi.toNat + lo.toNat + 256 * ckh.toNat + ckl.toNat) % 0x10000 := by
  have := ckh.isLt
  have := ckl.isLt
  simp only [receivedSum, addByte, addHigh, zext16, BitVec.toNat_add, BitVec.toNat_shiftLeft, BitVec.toNat_setWidth,
    toNat_frameSum, Nat.shiftLeft_eq]
  omega

/-- One byte changed at the positions 3 to 8 changes the sum by less than `2^16`, so it no longer vanishes (R141). -/
theorem receivedSum_set_ne_zero {f : Frame} {i : Nat} {b : Byte} (hi : i < 10) (lower : 3 ≤ i) (upper : i ≤ 8)
    (changed : b ≠ f[i]) (sum : receivedSum f[3] f[4] f[5] f[6] f[7] f[8] = 0#16) :
    receivedSum (f.set i b)[3] (f.set i b)[4] (f.set i b)[5] (f.set i b)[6] (f.set i b)[7] (f.set i b)[8] ≠ 0#16 := by
  have ne : b.toNat ≠ f[i].toNat := fun h => changed (BitVec.eq_of_toNat_eq h)
  have vanishes := congrArg BitVec.toNat sum
  intro still
  have vanishes' := congrArg BitVec.toNat still
  rw [toNat_receivedSum, BitVec.toNat_ofNat] at vanishes vanishes'
  have := b.isLt
  have := f[i].isLt
  interval_cases i <;> simp at vanishes' <;> omega

/-- A byte at position `k` mismatches exactly when the position has a fixed byte and the byte is not the one that a
complete frame has there (R77, R190). -/
theorem fixedByteMismatch_iff {f : Frame} (complete : completeFrame f = true) {k : Nat} (hk : k < 10) {r : RxRegs}
    (pos : r.idx.toNat = k) (b : Byte) : FixedByteMismatch b r ↔ (k ≤ 2 ∨ k = 9) ∧ b ≠ f[k] := by
  obtain ⟨start, ver, len, terminator, -⟩ := (completeFrame_iff f).1 complete
  have idx : r.idx = BitVec.ofNat 4 k := by
    rw [← pos, BitVec.ofNat_toNat, BitVec.setWidth_eq]
  unfold FixedByteMismatch
  interval_cases k <;> simp [idx, start, ver, len, terminator]

/-- A byte within the sequence that mismatches no fixed byte advances the cursor. -/
theorem ByteOutcome.advances {b : Byte} {r x : RxRegs} {done : Bool} (h : ByteOutcome b r x done)
    (inside : r.idx ≤ 9#4) (matched : ¬ FixedByteMismatch b r) : x.idx.toNat = r.idx.toNat + 1 := by
  cases h with
  | verified fixed => rcases fixed with ⟨pos, -⟩ | ⟨pos, -⟩ | ⟨pos, -⟩ <;> simp [pos]
  | framing mismatch => exact absurd mismatch matched
  | accepted _ _ upper idx => bv_omega
  | completed pos _ => simp [pos]
  | discarded outside => exact absurd inside (not_le_nine_of_outside outside)

/-- The first `k` bytes of a complete frame bring the cursor from 0 to `k`. -/
theorem idx_feedBytes_take {f : Frame} (complete : completeFrame f = true) {s : State} (pos : s.rx.idx = 0#4) {k : Nat}
    (hk : k ≤ 9) : (feedBytes (f.toList.take k) s).rx.idx.toNat = k := by
  induction k with
  | zero => simp [pos]
  | succ k ih =>
    have idx := ih (by omega)
    have matched : ¬ FixedByteMismatch f[k] (feedBytes (f.toList.take k) s).rx := by
      rw [fixedByteMismatch_iff complete (by omega) idx]
      simp
    have byte : f.toList.take (k + 1) = f.toList.take k ++ [f[k]] := by
      rw [← Vector.getElem_toList (by rw [Vector.length_toList]; omega), List.take_append_getElem]
    rw [byte, feedBytes_append]
    exact ((feedByte_outcome _ _).advances (by bv_omega) matched).trans (by rw [idx])

/-- After a mismatch the cursor is at 0 or 1, and at 0 when it was there before (R125). -/
theorem idx_feedByte_of_mismatch {b : Byte} {s : State} (mismatch : FixedByteMismatch b s.rx) :
    (feedByte b s).rx.idx.toNat ≤ 1 ∧ (s.rx.idx = 0#4 → (feedByte b s).rx.idx.toNat = 0) := by
  rw [feedByte_rx, positionRule_of_mismatch mismatch]
  constructor
  · dsimp only
    split <;> decide
  · intro pos
    simp [pos]

theorem byteEvents_append (bs cs : List Byte) (s : State) :
    byteEvents (bs ++ cs) s = byteEvents bs s ++ byteEvents cs (feedBytes bs s) := by
  induction bs generalizing s with
  | nil => rfl
  | cons b bs ih => rw [List.cons_append, byteEvents, ih, byteEvents, List.append_assoc, feedBytes_cons]

/-- A byte raises at most one event (R199). -/
theorem length_byteEvents_le (bs : List Byte) (s : State) : (byteEvents bs s).length ≤ bs.length := by
  induction bs generalizing s with
  | nil => exact Nat.le_refl 0
  | cons b bs ih =>
    have one : (byteEvent b s.rx).toList.length ≤ 1 := Option.length_toList_le
    have := ih (feedByte b s)
    rw [byteEvents, List.length_append, List.length_cons]
    omega

/-- A run of fewer than `2^32` bytes, one of them a mismatch, moves the error count (R141). -/
theorem nerrs_feedBytes_ne {before after : List Byte} {b : Byte} {s : State}
    (mismatch : FixedByteMismatch b (feedBytes before s).rx) (few : (before ++ b :: after).length < 2 ^ 32) :
    (feedBytes (before ++ b :: after) s).rx.nerrs ≠ s.rx.nerrs := by
  obtain ⟨e, raised, framing⟩ := (exists_framing_iff _ _).2 mismatch
  have some_error : 0 < (byteEvents (before ++ b :: after) s).countP Event.isFraming := by
    refine List.countP_pos_iff.2 ⟨e, ?_, framing⟩
    simp [byteEvents_append, byteEvents, raised]
  have bound : (byteEvents (before ++ b :: after) s).countP Event.isFraming ≤ (before ++ b :: after).length :=
    List.countP_le_length.trans (length_byteEvents_le _ s)
  rw [feedBytes_nerrs]
  bv_omega

/-- A frame with a fixed byte changed: the wrong byte is a framing error, and what follows it is too short for another
frame (R141). -/
theorem feedBytes_fixedByteChanged {f : Frame} (complete : completeFrame f = true) {i : Nat} (hi : i < 10)
    (fixed : i ≤ 2 ∨ i = 9) {b : Byte} (changed : b ≠ f[i]) {s : State} (pos : s.rx.idx = 0#4) :
    (feedBytes (f.set i b).toList s).rx.nerrs ≠ s.rx.nerrs ∧
    ∀ r ∈ feedResponses (f.set i b).toList s, r.done = false := by
  have parts : (f.set i b).toList = f.toList.take i ++ b :: f.toList.drop (i + 1) := by
    rw [Vector.toList_set, List.set_eq_take_append_cons_drop, if_pos (by simpa using hi)]
  have idx := idx_feedBytes_take complete pos (k := i) (by omega)
  have mismatch := (fixedByteMismatch_iff complete hi idx b).2 ⟨fixed, changed⟩
  obtain ⟨low, stays⟩ := idx_feedByte_of_mismatch mismatch
  have start (zero : i = 0) : (feedBytes (f.toList.take i) s).rx.idx = 0#4 := BitVec.eq_of_toNat_eq (idx.trans zero)
  rw [parts]
  refine ⟨nerrs_feedBytes_ne mismatch (by rw [← parts, Vector.length_toList]; decide), ?_⟩
  rw [feedResponses_append, List.forall_mem_append, feedResponses, List.forall_mem_cons]
  refine ⟨feedResponses_of_short ?_, (feedByte_outcome _ _).not_done (by bv_omega), feedResponses_of_short ?_⟩
  · rw [pos, BitVec.toNat_ofNat, List.length_take, Vector.length_toList]
    omega
  · rw [List.length_drop, Vector.length_toList]
    rcases Nat.eq_zero_or_pos i with zero | positive
    · rw [stays (start zero), zero]
    · omega

/-- Settles O35: a changed fixed byte is a framing error; at the other positions the frame is received whole, with
another sum. -/
theorem singleByteCorruptionDetected : Obligations.SingleByteCorruptionDetected := by
  rintro f ⟨i, hi⟩ b s complete changed pos fresh
  refine ⟨_, _, runOps_feeds _ s, feedBytes_trace _ s, fun fixed => ?_, fun inner => ?_⟩
  · exact feedBytes_fixedByteChanged complete hi fixed changed pos
  · obtain ⟨lower, upper⟩ : 3 ≤ i ∧ i ≤ 8 := inner
    obtain ⟨start, ver, len, terminator, sum⟩ := (completeFrame_iff f).1 complete
    have other (k : Nat) (hk : k < 10) (ne : i ≠ k) : (f.set i b)[k] = f[k] := Vector.getElem_set_ne hi hk ne
    have fixed : f.set i b = _ := eq_frameBytes ((other 0 (by omega) (by omega)).trans start)
      ((other 1 (by omega) (by omega)).trans ver) ((other 2 (by omega) (by omega)).trans len)
      ((other 9 (by omega) (by omega)).trans terminator)
    have received := feedBytes_frameBytes (pos ▸ by decide) fresh (f.set i b)[3] (f.set i b)[4] (f.set i b)[5]
      (f.set i b)[6] (f.set i b)[7] (f.set i b)[8]
    rw [← fixed] at received
    refine ⟨List.append_cancel_left ((feedBytes_trace _ s).symm.trans (congrArg State.trace received)), ?_⟩
    rw [received]
    exact beq_false_of_ne (receivedSum_set_ne_zero hi lower upper changed sum)

/-! ### Noise while hunting -/

/-- A run of bytes each of which is a framing error that leaves the cursor where it is: every byte costs one error count
and nothing else changes but `NBYTES` (R143). -/
theorem feedBytes_noise (bs : List Byte) {s : State} (fresh : s.rx.acc = Config.ACC_INIT)
    (noise : ∀ b ∈ bs, FixedByteMismatch b s.rx ∧
      (if b = Config.START ∧ (s.rx.idx = 1#4 ∨ s.rx.idx = 2#4) then 1#4 else 0#4) = s.rx.idx) :
    (feedBytes bs s).rx =
      { s.rx with
        nbytes := s.rx.nbytes + BitVec.ofNat 32 bs.length
        nerrs := s.rx.nerrs + BitVec.ofNat 32 bs.length } := by
  induction bs generalizing s with
  | nil => simp
  | cons b bs ih =>
    obtain ⟨⟨mismatch, stays⟩, noise⟩ := List.forall_mem_cons.1 noise
    have rx : (feedByte b s).rx = { s.rx with nbytes := s.rx.nbytes + 1#32, nerrs := s.rx.nerrs + 1#32 } := by
      rw [feedByte_rx, positionRule_of_mismatch mismatch, stays, ← fresh]
    rw [feedBytes_cons, ih (by rw [rx]; exact fresh) (by rw [rx]; exact noise), rx, List.length_cons, Nat.add_comm,
      BitVec.ofNat_add]
    simp only [BitVec.add_assoc]

/-- Settles O38: noise leaves the cursor at 0; of a run of start markers the first is accepted and the others leave the
cursor at 1. -/
theorem noiseWhileHuntingCountsErrors : Obligations.NoiseWhileHuntingCountsErrors := by
  refine fun s pos fresh => ⟨fun bs noStart => ⟨_, runOps_feeds bs s, feedBytes_noise bs fresh fun b mem => ?_⟩, ?_⟩
  · exact ⟨.inl ⟨pos, noStart b mem⟩, by simp [pos]⟩
  · intro k positive
    obtain ⟨k, rfl⟩ := Nat.exists_eq_add_of_le' positive
    have first := congrArg State.rx (feedByte_start (s := s) (pos ▸ by decide) fresh)
    rw [if_pos pos] at first
    have others := feedBytes_noise (List.replicate k Config.START) (s := feedByte Config.START s)
      (by rw [first]; exact fresh) fun b mem => by
        rw [List.eq_of_mem_replicate mem, first]
        exact ⟨.inr (.inl ⟨rfl, by decide⟩), rfl⟩
    refine ⟨_, runOps_feeds _ s, others.trans ?_⟩
    rw [first, List.length_replicate, Nat.add_sub_cancel, Nat.add_comm k 1, BitVec.ofNat_add, ← BitVec.add_assoc]

/-! ### Garbage between a preamble and a fresh frame -/

/-- While the bytes so far hold no preamble the cursor is at a verify position, with what it has verified as the last of
these bytes (R142). -/
theorem hunting_feedBytes {s : State} (pos : s.rx.idx = 0#4) (bs : List Byte)
    (noPreamble : ¬ [Config.START, Config.VER, Config.LEN] <:+: bs) :
    (feedBytes bs s).rx.idx = 0#4 ∨ ((feedBytes bs s).rx.idx = 1#4 ∧ [Config.START] <:+ bs) ∨
    ((feedBytes bs s).rx.idx = 2#4 ∧ [Config.START, Config.VER] <:+ bs) := by
  induction bs using List.reverseRecOn with
  | nil => exact .inl pos
  | append_singleton bs b ih =>
    have before := ih fun inside => noPreamble (inside.trans (List.prefix_append bs [b]).isInfix)
    rw [feedBytes_append]
    generalize feedBytes bs s = u at before ⊢
    by_cases mismatch : FixedByteMismatch b u.rx
    · have idx : (feedByte b u).rx.idx = if b = Config.START ∧ (u.rx.idx = 1#4 ∨ u.rx.idx = 2#4) then 1#4 else 0#4 := by
        rw [feedByte_rx, positionRule_of_mismatch mismatch]
      split at idx
      next resync => exact .inr (.inl ⟨idx, resync.1 ▸ List.suffix_append bs [b]⟩)
      next => exact .inl idx
    · have idx (inside : u.rx.idx ≤ 9#4) := (feedByte_outcome b u).advances inside mismatch
      simp only [FixedByteMismatch, not_or, not_and, not_not] at mismatch
      obtain ⟨start, ver, len, -⟩ := mismatch
      rcases before with pos | ⟨pos, q, rfl⟩ | ⟨pos, q, rfl⟩
      · rw [pos] at idx
        exact .inr (.inl ⟨BitVec.eq_of_toNat_eq (idx (by decide)), bs, by rw [start pos]⟩)
      · rw [pos] at idx
        exact .inr (.inr ⟨BitVec.eq_of_toNat_eq (idx (by decide)), q, by simp [ver pos]⟩)
      · exact absurd ⟨q, [], by simp [len pos]⟩ noPreamble

/-- Six bytes, whatever they are, bring the cursor from behind the preamble to the terminator position (R126 to
R131). -/
theorem idx_feedBytes_accepted (bs : List Byte) {s : State} (lower : 3 ≤ s.rx.idx.toNat)
    (upper : s.rx.idx.toNat + bs.length ≤ 9) : (feedBytes bs s).rx.idx.toNat = s.rx.idx.toNat + bs.length := by
  induction bs generalizing s with
  | nil => rfl
  | cons b bs ih =>
    rw [List.length_cons] at upper ⊢
    have matched : ¬ FixedByteMismatch b s.rx := by
      rintro (⟨pos, -⟩ | ⟨pos, -⟩ | ⟨pos, -⟩ | ⟨pos, -⟩) <;> bv_omega
    have idx := (feedByte_outcome b s).advances (by bv_omega) matched
    rw [feedBytes_cons, ih (by omega) (by omega), idx]
    omega

/-- A byte at the terminator position and, if it completed a frame, an `RXRESET` leave the cursor at 0 (R132, R136). -/
theorem runOps_terminator_release {s : State} (pos : s.rx.idx = 9#4) (b : Byte) :
    ∃ t, runOps (feeds [b] ++ if b = Config.END then [.rxreset] else []) s = .next t ∧ t.rx.idx = 0#4 ∧
      t.rx.acc = Config.ACC_INIT := by
  rw [runOps_append (runOps_feeds [b] s)]
  split
  next => exact ⟨_, exec_rxreset _, rfl, rfl⟩
  next ne =>
    have rx := congrArg Prod.fst (positionRule_of_mismatch (.inr (.inr (.inr ⟨pos, ne⟩))))
    refine ⟨feedByte b s, rfl, ?_, ?_⟩ <;> rw [feedByte_rx, rx]
    simp [pos]

/-- A preamble, seven bytes, and an `RXRESET` where they complete a frame: the cursor is at 0 again (R142). -/
theorem runOps_garbage {six : List Byte} (length : six.length = 6) (seventh : Byte) {s : State} (pos : s.rx.idx = 0#4)
    (fresh : s.rx.acc = Config.ACC_INIT) :
    ∃ t, runOps (feeds ([Config.START, Config.VER, Config.LEN] ++ six ++ [seventh]) ++
        if seventh = Config.END then [.rxreset] else []) s = .next t ∧ t.rx.idx = 0#4 ∧ t.rx.acc = Config.ACC_INIT := by
  have preamble : (feedBytes [Config.START, Config.VER, Config.LEN] s).rx.idx.toNat = 3 := by
    rw [feedBytes_preamble (pos ▸ by decide) fresh]
    rfl
  have terminator : (feedBytes ([Config.START, Config.VER, Config.LEN] ++ six) s).rx.idx = 9#4 := by
    apply BitVec.eq_of_toNat_eq
    rw [feedBytes_append, idx_feedBytes_accepted six (by omega) (by omega), preamble, length]
    rfl
  obtain ⟨t, run, idx, acc⟩ := runOps_terminator_release terminator seventh
  refine ⟨t, ?_, idx, acc⟩
  rw [feeds, List.map_append, List.append_assoc]
  exact (runOps_append (runOps_feeds _ s) _).trans run

/-- Settles O36: after the seventh garbage byte the cursor is at 0, the further garbage leaves it at a verify position,
and from there the fresh frame is received whole. -/
theorem resyncAfterSevenGarbageBytes : Obligations.ResyncAfterSevenGarbageBytes := by
  intro six rest seventh f s length noPreamble complete pos fresh before after
  obtain ⟨v, run, idx, acc⟩ := runOps_garbage length seventh pos fresh
  have inv : RxInv (feedBytes rest v).rx := feedBytes_rxInv rest ⟨by simp [idx], fun _ => acc⟩
  have hunting : (feedBytes rest v).rx.idx ≤ 2#4 := by
    rcases hunting_feedBytes idx rest noPreamble with e | ⟨e, -⟩ | ⟨e, -⟩ <;> simp [e]
  have received := feedBytes_completeFrame hunting (inv.2 (BitVec.le_trans hunting (by decide))) complete
  refine ⟨_, ((runOps_append run _).trans (runOps_feeds _ v)).trans
    (congrArg _ ((feedBytes_append rest f.toList v).trans received)), ?_⟩
  exact ⟨lastResponse_of_receivedResponses rfl, rfl, rfl, rfl, rfl, rfl, rfl⟩

end Sys2Proof.Machine
end

section
/-! Runs of operations: the host's rule and the defensive reset (70_reset_and_hazards.md R225, 60_exceptions.md R194),
the counters against the bytes, responses and events of a run (60_exceptions.md R207), and what a completed frame says
of the last ten bytes (41_rx_state_machine.md R139). -/

namespace Sys2Proof.Machine

/-! ### The host's rule -/

/-- A byte is lost, its only effect the cursor reset, exactly outside the sequence (R194). -/
theorem ByteOutcome.lost_iff {b : Byte} {r x : RxRegs} {done : Bool} (h : ByteOutcome b r x done) :
    x = { r with idx := 0#4, acc := Config.ACC_INIT, nbytes := r.nbytes + 1#32 } ↔ 10#4 ≤ r.idx := by
  constructor
  · intro lost
    have idx : x.idx = 0#4 := by rw [lost]
    have nerrs : x.nerrs = r.nerrs := by rw [lost]
    rcases h.moves with ⟨outside, -⟩ | ⟨-, up, -⟩ | ⟨-, -, counted⟩ | ⟨-, -, counted⟩
    · exact outside
    all_goals bv_omega
  · intro outside
    cases h with
    | verified fixed => rcases fixed with ⟨pos, -⟩ | ⟨pos, -⟩ | ⟨pos, -⟩ <;> bv_omega
    | framing mismatch => rcases mismatch with ⟨pos, -⟩ | ⟨pos, -⟩ | ⟨pos, -⟩ | ⟨pos, -⟩ <;> bv_omega
    | accepted _ _ upper => bv_omega
    | completed pos _ => bv_omega
    | discarded _ => rfl

/-- Bytes none of which finds a completed frame take no defensive reset (R194, R225). -/
theorem no_defensive_of_feedsObey {bs : List Byte} {s : State} (obeys : feedsObey bs s = true) :
    Event.defensive ∉ byteEvents bs s := by
  induction bs generalizing s with
  | nil => exact List.not_mem_nil
  | cons b bs ih =>
    obtain ⟨inside, obeys⟩ := (Bool.and_eq_true _ _).mp obeys
    have inside := of_decide_eq_true inside
    have first : Event.defensive ∉ (byteEvent b s.rx).toList := by
      rw [Option.mem_toList, byteEvent_defensive_iff]
      exact BitVec.not_le.2 inside
    exact List.not_mem_append first (ih obeys)

theorem no_defensive_of_obeysReset {i : Instr} {s : State} (obeys : obeysReset i s = true) :
    Event.defensive ∉ events i s := by
  by_cases noByte : fedBytes i = []
  · intro mem
    rcases events_of_noByte noByte s _ mem with e | e <;> cases e
  · rw [events_of_fedBytes noByte]
    exact no_defensive_of_feedsObey obeys

theorem runEvents_cons {i : Instr} {is : List Instr} {s t : State} (h : exec i s = .next t) :
    runEvents (i :: is) s = events i s ++ runEvents is t := by
  simp only [runEvents, h]

theorem obeysRun_cons {i : Instr} {is : List Instr} {s t : State} (h : exec i s = .next t) :
    obeysRun (i :: is) s = (obeysReset i s && obeysRun is t) := by
  simp only [obeysRun, h]

theorem no_defensive_of_obeysRun {ops : List Instr} {s : State} (obeys : obeysRun ops s = true) :
    Event.defensive ∉ runEvents ops s := by
  induction ops generalizing s with
  | nil => exact List.not_mem_nil
  | cons i is ih =>
    obtain ⟨t, h⟩ := exec_total i s
    rw [obeysRun_cons h, Bool.and_eq_true] at obeys
    rw [runEvents_cons h]
    exact List.not_mem_append (no_defensive_of_obeysReset obeys.1) (ih obeys.2)

/-! ### A host that goes by the responses -/

/-- A byte within the sequence that is not answered `done` leaves the cursor within the sequence. -/
theorem ByteOutcome.idx_le_nine {b : Byte} {r x : RxRegs} (h : ByteOutcome b r x false) (inside : r.idx ≤ 9#4) :
    x.idx ≤ 9#4 := by
  cases h with
  | verified fixed => rcases fixed with ⟨pos, -⟩ | ⟨pos, -⟩ | ⟨pos, -⟩ <;> simp [pos]
  | framing _ => dsimp only; split <;> decide
  | accepted _ _ upper idx => bv_omega
  | discarded _ => exact (by decide : 0#4 ≤ 9#4)

/-- Bytes fed from within the sequence, none but the last answered `done`, keep the host's rule, and leave the cursor
within the sequence unless the last is answered `done` (R225). -/
theorem feedsObey_of_responses {bs : List Byte} (nonempty : bs ≠ []) {s : State} (inside : s.rx.idx ≤ 9#4)
    (notDone : ∀ r ∈ (feedResponses bs s).dropLast, r.done = false) :
    feedsObey bs s = true ∧ ((lastResponse (feedBytes bs s)).done = false → (feedBytes bs s).rx.idx ≤ 9#4) := by
  induction bs generalizing s with
  | nil => exact absurd rfl nonempty
  | cons b bs ih =>
    have here : decide (s.rx.idx < 10#4) = true := decide_eq_true (by bv_omega)
    have outcome := feedByte_outcome b s
    cases bs with
    | nil => exact ⟨by rw [feedsObey, here]; rfl, fun quiet => (quiet ▸ outcome).idx_le_nine inside⟩
    | cons c cs =>
      have more : feedResponses (c :: cs) (feedByte b s) ≠ [] := List.cons_ne_nil _ _
      rw [feedResponses, List.dropLast_cons_of_ne_nil more, List.forall_mem_cons] at notDone
      obtain ⟨quiet, notDone⟩ := notDone
      have later := ih (List.cons_ne_nil c cs) ((quiet ▸ outcome).idx_le_nine inside) notDone
      exact ⟨by rw [feedsObey, here, later.1]; rfl, later.2⟩

theorem releasesRun_cons {i : Instr} {is : List Instr} {held : Bool} {s t : State} (h : exec i s = .next t) :
    releasesRun held (i :: is) s =
      if fedBytes i = [] then releasesRun (held && decide (i ≠ .rxreset)) is t
      else !held && ((t.trace.drop s.trace.length).dropLast.all fun r => !r.done) &&
        releasesRun (lastResponse t).done is t := by
  simp only [releasesRun, h]

/-- A host that goes by the responses keeps the rule: while it holds no `done` the cursor is within the sequence
(R225). -/
theorem obeysRun_of_releasesRun {ops : List Instr} {held : Bool} {s : State}
    (inside : held = false → s.rx.idx ≤ 9#4) (releases : releasesRun held ops s = true) : obeysRun ops s = true := by
  induction ops generalizing held s with
  | nil => rfl
  | cons i is ih =>
    obtain ⟨t, h⟩ := exec_total i s
    rw [releasesRun_cons h] at releases
    rw [obeysRun_cons h, Bool.and_eq_true]
    by_cases noByte : fedBytes i = []
    · rw [if_pos noByte] at releases
      refine ⟨by rw [obeysReset, noByte]; rfl, ih (fun released => ?_) releases⟩
      rcases exec_noByte_rx noByte h with rx | ⟨-, rx⟩
      · by_cases reset : i = .rxreset
        · subst reset
          cases h
          exact (by decide : 0#4 ≤ 9#4)
        · rw [rx]
          exact inside (by simpa [reset] using released)
      · rw [rx]
        exact (by decide : 0#4 ≤ 9#4)
    · rw [if_neg noByte, Bool.and_eq_true, Bool.and_eq_true, Bool.not_eq_true'] at releases
      obtain ⟨⟨free, quiet⟩, releases⟩ := releases
      rw [exec_of_fedBytes noByte] at h
      cases h
      rw [feedBytes_trace, List.drop_left, List.all_eq_true] at quiet
      have obeys := feedsObey_of_responses noByte (inside free) fun r mem => by simpa using quiet r mem
      exact ⟨obeys.1, ih obeys.2 releases⟩

/-- Settles O31: a lost byte is one outside the sequence; the host's rule keeps every byte within it, and a host that
goes by the responses keeps the rule. -/
theorem defensiveResetOnlyByRuleBreak : Obligations.DefensiveResetOnlyByRuleBreak := by
  refine ⟨fun i b s t fed h => ?_, fun ops s obeys => no_defensive_of_obeysRun obeys, fun ops s inside releases =>
    no_defensive_of_obeysRun (obeysRun_of_releasesRun (fun _ => inside) releases)⟩
  rw [exec_oneByte fed] at h
  cases h
  have outside : obeysReset i s = false ↔ 10#4 ≤ s.rx.idx := by
    simp [obeysReset, fed, feedsObey]
  exact outside.trans (feedByte_outcome b s).lost_iff.symm

/-! ### The last ten bytes -/

/-- The bytes fed so far end with the first `IDX` bytes of a frame, and the receive registers are what these bytes make
of a receiver at position 0 (R139). -/
def EndsInFrame (fed : List Byte) (r : RxRegs) : Prop :=
  ∃ (earlier : List Byte) (op ack hi lo ckh ckl : Byte) (s₀ : State),
    s₀.rx.idx = 0#4 ∧ s₀.rx.acc = Config.ACC_INIT ∧
    fed = earlier ++ (frameBytes op ack hi lo ckh ckl).toList.take r.idx.toNat ∧
    r = (feedBytes ((frameBytes op ack hi lo ckh ckl).toList.take r.idx.toNat) s₀).rx

theorem endsInFrame_fresh (fed : List Byte) {r : RxRegs} (pos : r.idx = 0#4) (fresh : r.acc = Config.ACC_INIT) :
    EndsInFrame fed r :=
  ⟨fed, 0, 0, 0, 0, 0, 0, { State.reset with rx := r }, pos, fresh, by simp [pos], by simp [pos]⟩

/-- A state in which a start marker leaves the registers `r`, which are at position 1. -/
def beforeStart (r : RxRegs) : State := { State.reset with rx := { r with idx := 0#4, nbytes := r.nbytes - 1#32 } }

theorem endsInFrame_start (fed : List Byte) {r : RxRegs} (pos : r.idx = 1#4) (fresh : r.acc = Config.ACC_INIT) :
    EndsInFrame (fed ++ [Config.START]) r := by
  have started := feedByte_start (s := beforeStart r) (by decide : 0#4 ≤ 2#4) fresh
  refine ⟨fed, 0, 0, 0, 0, 0, 0, beforeStart r, rfl, fresh, by rw [pos]; rfl, ?_⟩
  rw [pos]
  refine Eq.trans ?_ (congrArg State.rx started).symm
  simp [beforeStart, ← pos]

/-- The next byte of a frame, a free one at the positions 3 to 8. -/
theorem exists_take_succ {b : Byte} {r : RxRegs} (inside : r.idx ≤ 9#4) (matched : ¬ FixedByteMismatch b r)
    (op ack hi lo ckh ckl : Byte) :
    ∃ op' ack' hi' lo' ckh' ckl', (frameBytes op' ack' hi' lo' ckh' ckl').toList.take (r.idx.toNat + 1) =
      (frameBytes op ack hi lo ckh ckl).toList.take r.idx.toNat ++ [b] := by
  simp only [FixedByteMismatch, not_or, not_and, not_not] at matched
  obtain ⟨start, ver, len, terminator⟩ := matched
  rcases positionRule_cases r.idx with ⟨pos, -⟩ | ⟨pos, -⟩ | ⟨pos, -⟩ | ⟨pos, -⟩ | ⟨pos, -⟩ | ⟨pos, -⟩ | ⟨pos, -⟩ |
    ⟨pos, -⟩ | ⟨pos, -⟩ | ⟨pos, -⟩ | ⟨outside, -⟩
  · exact ⟨op, ack, hi, lo, ckh, ckl, by rw [pos, start pos]; rfl⟩
  · exact ⟨op, ack, hi, lo, ckh, ckl, by rw [pos, ver pos]; rfl⟩
  · exact ⟨op, ack, hi, lo, ckh, ckl, by rw [pos, len pos]; rfl⟩
  · exact ⟨b, ack, hi, lo, ckh, ckl, by rw [pos]; rfl⟩
  · exact ⟨op, b, hi, lo, ckh, ckl, by rw [pos]; rfl⟩
  · exact ⟨op, ack, b, lo, ckh, ckl, by rw [pos]; rfl⟩
  · exact ⟨op, ack, hi, b, ckh, ckl, by rw [pos]; rfl⟩
  · exact ⟨op, ack, hi, lo, b, ckl, by rw [pos]; rfl⟩
  · exact ⟨op, ack, hi, lo, ckh, b, by rw [pos]; rfl⟩
  · exact ⟨op, ack, hi, lo, ckh, ckl, by rw [pos, terminator pos]; rfl⟩
  · exact absurd inside (not_le_nine_of_outside outside)

theorem endsInFrame_feedByte {fed : List Byte} {s : State} (ends : EndsInFrame fed s.rx) (b : Byte) :
    EndsInFrame (fed ++ [b]) (feedByte b s).rx := by
  by_cases mismatch : FixedByteMismatch b s.rx
  · have rx := congrArg Prod.fst (positionRule_of_mismatch mismatch)
    rw [feedByte_rx, rx]
    by_cases resync : b = Config.START ∧ (s.rx.idx = 1#4 ∨ s.rx.idx = 2#4)
    · rw [if_pos resync, resync.1]
      exact endsInFrame_start fed rfl rfl
    · rw [if_neg resync]
      exact endsInFrame_fresh _ rfl rfl
  by_cases inside : s.rx.idx ≤ 9#4
  · obtain ⟨earlier, op, ack, hi, lo, ckh, ckl, s₀, pos, fresh, bytes, rx⟩ := ends
    obtain ⟨op', ack', hi', lo', ckh', ckl', longer⟩ := exists_take_succ inside mismatch op ack hi lo ckh ckl
    have idx := (feedByte_outcome b s).advances inside mismatch
    refine ⟨earlier, op', ack', hi', lo', ckh', ckl', s₀, pos, fresh, ?_, ?_⟩ <;> rw [idx, longer]
    · rw [← List.append_assoc, ← bytes]
    · rw [feedBytes_append]
      exact feedBytes_rx_congr [b] rx
  · have outside : 10#4 ≤ s.rx.idx := by bv_omega
    rw [feedByte_rx, positionRule_outside outside]
    exact endsInFrame_fresh _ rfl rfl

theorem endsInFrame_feedBytes {fed : List Byte} {s : State} (ends : EndsInFrame fed s.rx) (bs : List Byte) :
    EndsInFrame (fed ++ bs) (feedBytes bs s).rx := by
  induction bs generalizing fed s with
  | nil => rwa [List.append_nil]
  | cons b bs ih =>
    rw [List.append_cons]
    exact ih (endsInFrame_feedByte ends b)

theorem endsInFrame_exec {fed : List Byte} {i : Instr} {s t : State} (ends : EndsInFrame fed s.rx)
    (h : exec i s = .next t) : EndsInFrame (fed ++ fedBytes i) t.rx := by
  by_cases noByte : fedBytes i = []
  · rw [noByte, List.append_nil]
    rcases exec_noByte_rx noByte h with rx | ⟨-, rx⟩ <;> rw [rx]
    · exact ends
    · exact endsInFrame_fresh _ rfl rfl
  · rw [exec_of_fedBytes noByte] at h
    cases h
    exact endsInFrame_feedBytes ends _

theorem endsInFrame_runOps {ops : List Instr} {fed : List Byte} {s t : State} (ends : EndsInFrame fed s.rx)
    (h : runOps ops s = .next t) : EndsInFrame (fed ++ ops.flatMap fedBytes) t.rx := by
  induction ops generalizing fed s with
  | nil =>
    cases h
    simpa using ends
  | cons i is ih =>
    obtain ⟨u, hu, h⟩ := runOps_cons_next h
    rw [List.flatMap_cons, ← List.append_assoc]
    exact ih (endsInFrame_exec ends hu) h

/-- Settles O39: at `IDX = 10` the ten bytes are a whole frame, and its registers are those of a frame received whole
from position 0. -/
theorem completeMeansLastTenBytesWereAFrame : Obligations.CompleteMeansLastTenBytesWereAFrame := by
  refine fun ops t h => ⟨?_, fun complete => ?_⟩
  · have inv : RxInv t.rx := runOps_keeps (P := fun s => RxInv s.rx) (fun i _ s t inv h => exec_rxInv inv h)
      (rxInv_cursorReset RxRegs.reset) h
    exact inv.2
  · obtain ⟨earlier, op, ack, hi, lo, ckh, ckl, s₀, pos, fresh, bytes, rx⟩ :=
      endsInFrame_runOps (endsInFrame_fresh [] (r := State.reset.rx) rfl rfl) h
    have whole : (frameBytes op ack hi lo ckh ckl).toList.take t.rx.idx.toNat =
        (frameBytes op ack hi lo ckh ckl).toList := by
      rw [complete]
      rfl
    rw [whole] at bytes rx
    rw [feedBytes_frameBytes (pos ▸ by decide) fresh] at rx
    rw [rx]
    refine ⟨earlier, op, ack, hi, lo, ckh, ckl, bytes, rfl, rfl, rfl, rfl, ?_, Bool.beq_eq_decide_eq _ _⟩
    rw [← zext16_shiftLeft]
    rfl

end Sys2Proof.Machine
end

section
/-! The counters of a run against the bytes it feeds, the responses it gives and the events it raises
(60_exceptions.md R207). -/

namespace Sys2Proof.Machine

/-- The number of framing errors a byte raises, 0 or 1. -/
def errorsOf (b : Byte) (r : RxRegs) : Nat := (byteEvent b r).toList.countP Event.isFraming

theorem errorsOf_le_one (b : Byte) (r : RxRegs) : errorsOf b r ≤ 1 :=
  List.countP_le_length.trans Option.length_toList_le

theorem errorsOf_eq_zero {b : Byte} {r : RxRegs} (matched : ¬ FixedByteMismatch b r) : errorsOf b r = 0 :=
  countP_framing_of_matched matched

theorem progress_of_le {r : RxRegs} (inside : r.idx ≤ 9#4) : progress r = r.idx.toNat := if_pos inside

theorem progress_le_idx (r : RxRegs) : progress r ≤ r.idx.toNat := by
  unfold progress
  split
  · exact Nat.le_refl _
  · exact Nat.zero_le _

theorem ByteOutcome.nbytes {b : Byte} {r x : RxRegs} {done : Bool} (h : ByteOutcome b r x done) :
    x.nbytes = r.nbytes + 1#32 := by
  cases h with
  | accepted _ _ _ _ nbytes => exact nbytes
  | _ => rfl

theorem ByteOutcome.npkts {b : Byte} {r x : RxRegs} {done : Bool} (h : ByteOutcome b r x done) :
    x.npkts = r.npkts + BitVec.ofNat 32 done.toNat := by
  cases h with
  | accepted _ _ _ _ _ npkts => simpa using npkts
  | completed _ _ => rfl
  | _ => exact (BitVec.add_zero _).symm

/-- A byte pays for what it moves: the frame it completes, the error it counts, the position it reaches (R207). -/
theorem ByteOutcome.progress_le {b : Byte} {r x : RxRegs} {done : Bool} (h : ByteOutcome b r x done) :
    10 * done.toNat + errorsOf b r + progress x ≤ progress r + 1 := by
  have few := errorsOf_le_one b r
  cases h with
  | verified fixed =>
    have matched : ¬ FixedByteMismatch b r := by
      rcases fixed with ⟨pos, hb⟩ | ⟨pos, hb⟩ | ⟨pos, hb⟩ <;> simp [FixedByteMismatch, pos, hb]
    rw [errorsOf_eq_zero matched]
    rcases fixed with ⟨pos, -⟩ | ⟨pos, -⟩ | ⟨pos, -⟩ <;> simp [progress, pos]
  | framing mismatch =>
    have back :
        (if b = Config.START ∧ (r.idx = 1#4 ∨ r.idx = 2#4) then 1#4 else 0#4 : BitVec 4).toNat ≤ progress r := by
      split
      next resync => rcases resync.2 with pos | pos <;> simp [progress, pos]
      next => exact Nat.zero_le _
    refine (Nat.add_le_add ?_ ((progress_le_idx _).trans back)).trans_eq (Nat.add_comm 1 _)
    simpa using few
  | accepted _ lower upper idx =>
    have matched : ¬ FixedByteMismatch b r := by
      rintro (⟨pos, -⟩ | ⟨pos, -⟩ | ⟨pos, -⟩ | ⟨pos, -⟩) <;> bv_omega
    rw [errorsOf_eq_zero matched, progress_of_le (by bv_omega), progress_of_le (by bv_omega), idx, Bool.toNat_false]
    bv_omega
  | completed pos terminator =>
    have matched : ¬ FixedByteMismatch b r := by simp [FixedByteMismatch, pos, terminator]
    rw [errorsOf_eq_zero matched]
    simp [progress, pos]
  | discarded outside =>
    have zero : errorsOf b r = 0 := by
      rw [errorsOf, byteEvent_outside outside]
      rfl
    simp [zero, progress]

/-- The three counters are the numbers of bytes, of `done` responses and of errors, modulo `2^32`, and the numbers
satisfy the inequality of R207. -/
structure Tallied (bytes errors : Nat) (s : State) : Prop where
  nbytes : s.rx.nbytes = BitVec.ofNat 32 bytes
  npkts : s.rx.npkts = BitVec.ofNat 32 (s.trace.countP Response.done)
  nerrs : s.rx.nerrs = BitVec.ofNat 32 errors
  bound : 10 * s.trace.countP Response.done + errors + progress s.rx ≤ bytes

theorem tallied_feedByte {bytes errors : Nat} {s : State} (tallied : Tallied bytes errors s) (b : Byte) :
    Tallied (bytes + 1) (errors + errorsOf b s.rx) (feedByte b s) := by
  obtain ⟨nbytes, npkts, nerrs, bound⟩ := tallied
  have outcome := feedByte_outcome b s
  have paid := outcome.progress_le
  have packets : (feedByte b s).trace.countP Response.done =
      s.trace.countP Response.done + (lastResponse (feedByte b s)).done.toNat := by
    rw [feedByte_trace, List.countP_append, lastResponse_feedByte, List.countP_singleton, Bool.toNat, cond_eq_ite]
  refine ⟨?_, ?_, ?_, ?_⟩
  · rw [outcome.nbytes, nbytes, BitVec.ofNat_add]
  · rw [outcome.npkts, packets, npkts, BitVec.ofNat_add]
  · rw [feedByte_nerrs, nerrs, BitVec.ofNat_add]
    rfl
  · rw [packets]
    omega

theorem tallied_feedBytes {bytes errors : Nat} {s : State} (tallied : Tallied bytes errors s) (bs : List Byte) :
    Tallied (bytes + bs.length) (errors + (byteEvents bs s).countP Event.isFraming) (feedBytes bs s) := by
  induction bs generalizing bytes errors s with
  | nil => exact tallied
  | cons b bs ih =>
    have later := ih (tallied_feedByte tallied b)
    rwa [Nat.add_assoc, Nat.add_comm 1, Nat.add_assoc, errorsOf, ← List.countP_append] at later

/-- An operation that feeds no byte answers no `done` (R39). -/
theorem countP_done_of_noByte {i : Instr} {s t : State} (noByte : fedBytes i = []) (h : exec i s = .next t) :
    t.trace.countP Response.done = s.trace.countP Response.done := by
  obtain ⟨⟨rs, trace, -, kinds⟩, -⟩ := responsesByOperation i s t h
  have none : rs.countP Response.done = 0 := by
    refine List.countP_eq_zero.2 fun r mem => ?_
    rcases kinds r mem with rfl | ⟨-, bytes⟩ | ⟨rfl, -⟩ | ⟨rfl, -⟩
    · simp
    · exact absurd noByte bytes
    · simp
    · simp
  rw [trace, List.countP_append, none, Nat.add_zero]

theorem tallied_exec {bytes errors : Nat} {i : Instr} {s t : State} (tallied : Tallied bytes errors s)
    (h : exec i s = .next t) :
    Tallied (bytes + (fedBytes i).length) (errors + (events i s).countP Event.isFraming) t := by
  by_cases noByte : fedBytes i = []
  · obtain ⟨nbytes, npkts, nerrs, bound⟩ := tallied
    have packets := countP_done_of_noByte noByte h
    rw [noByte, countP_framing_of_noByte noByte]
    rcases exec_noByte_rx noByte h with rx | ⟨-, rx⟩
    · exact ⟨by rw [rx]; exact nbytes, by rw [rx, packets]; exact npkts, by rw [rx]; exact nerrs,
        by rw [rx, packets]; exact bound⟩
    · have released : progress (cursorReset s.rx) = 0 := rfl
      exact ⟨by rw [rx]; exact nbytes, by rw [rx, packets]; exact npkts, by rw [rx]; exact nerrs,
        by rw [rx, packets, released, List.length_nil]; omega⟩
  · rw [exec_of_fedBytes noByte] at h
    cases h
    rw [events_of_fedBytes noByte]
    exact tallied_feedBytes tallied _

theorem tallied_runOps {ops : List Instr} {bytes errors : Nat} {s t : State} (tallied : Tallied bytes errors s)
    (h : runOps ops s = .next t) :
    Tallied (bytes + (ops.flatMap fedBytes).length) (errors + (runEvents ops s).countP Event.isFraming) t := by
  induction ops generalizing bytes errors s with
  | nil =>
    cases h
    exact tallied
  | cons i is ih =>
    obtain ⟨u, hu, h⟩ := runOps_cons_next h
    have later := ih (tallied_exec tallied hu) h
    rwa [Nat.add_assoc, Nat.add_assoc, ← List.countP_append, ← List.length_append, ← runEvents_cons hu] at later

/-- Settles O40: the tally starts at 0 at reset, and below `2^32` bytes no counter has wrapped. -/
theorem countersCountWhatTheySay : Obligations.CountersCountWhatTheySay := by
  intro ops t few h
  have start : Tallied 0 0 State.reset := ⟨rfl, rfl, rfl, Nat.le_refl 0⟩
  obtain ⟨nbytes, npkts, nerrs, bound⟩ := tallied_runOps start h
  rw [Nat.zero_add] at nbytes nerrs bound
  rw [Nat.zero_add] at bound
  rw [nbytes, npkts, nerrs, BitVec.toNat_ofNat, BitVec.toNat_ofNat, BitVec.toNat_ofNat, Nat.mod_eq_of_lt few,
    Nat.mod_eq_of_lt (by omega), Nat.mod_eq_of_lt (by omega)]
  exact ⟨rfl, rfl, rfl, by omega⟩

end Sys2Proof.Machine
end

section
/-! The environment of 43_environment.md: the gate of a send (R163), the reset command's two windows (R164, R171), and
what a poll does to the block and hands to the handler (R166 to R170). -/

namespace Sys2Proof.Machine

variable {tw : Nat} (cfg : EnvConfig tw) (now : BitVec tw)

/-! ### The send -/

theorem armWindows_busy_tSet (op : Byte) (d : Driver tw) : (armWindows cfg now op d).busy.tSet = now := by
  unfold armWindows
  split_ifs <;> rfl

theorem noteMedium_frame (op hi lo : Byte) (d : Driver tw) :
    (noteMedium cfg op hi lo d).lastSend = d.lastSend ∧ (noteMedium cfg op hi lo d).calls = d.calls ∧
    (noteMedium cfg op hi lo d).channel = d.channel := by
  unfold noteMedium
  split_ifs <;> exact ⟨rfl, rfl, rfl⟩

/-- Beside the block a send on a free link sets the busy deadline from now and the time of the send, and keeps the
handler calls and the channel (R160, R163, R164). -/
theorem send_free_env {d : Driver tw} (free : runningAt d.busy now = false) (op hi lo : Byte) :
    (send cfg now op hi lo d).1.busy.tSet = now ∧ (send cfg now op hi lo d).1.lastSend = now ∧
    (send cfg now op hi lo d).1.calls = d.calls ∧ (send cfg now op hi lo d).1.channel = d.channel := by
  obtain ⟨lastSend, calls, channel⟩ :=
    noteMedium_frame cfg op hi lo { d with block := transmit op hi lo d.block, lastSend := now }
  obtain ⟨-, -, lastSend', channel', calls'⟩ := armWindows_frame cfg now op
    (noteMedium cfg op hi lo { d with block := transmit op hi lo d.block, lastSend := now })
  rw [send, free, if_neg Bool.false_ne_true]
  exact ⟨armWindows_busy_tSet cfg now op _, lastSend'.trans lastSend, calls'.trans calls, channel'.trans channel⟩

/-- Settles O55: `send_busy` and `send_free`, whose block is that of `FILL` and `EMIT`. -/
theorem sendGate : Obligations.SendGate := by
  intro tw cfg now op hi lo d
  refine ⟨fun busy => send_busy cfg now (decide_eq_true busy) op hi lo, fun expired => ?_, fun p => rfl⟩
  have free := (runningAt_eq_false_iff now d.busy).2 expired
  obtain ⟨sent, block⟩ := send_free cfg now free op hi lo
  refine ⟨sent, ?_, ?_, send_free_env cfg now free op hi lo⟩ <;> rw [block, transmit_eq]
  · exact runOps_fill_emit op hi lo d.block
  · rw [txStream_txWrite, txStream_respond_of_tx_none rfl]
    rfl

/-! ### The overdue test -/

theorem overdueTest_unarmed {d : Driver tw} (unarmed : d.overdue = none) : overdueTest cfg now d = d := by
  rw [overdueTest, unarmed]

theorem overdueTest_elapsed {d : Driver tw} {t : Deadline tw} (armed : d.overdue = some t)
    (elapsed : runningAt t now = false) :
    overdueTest cfg now d = { callHandler Config.OVERDUE_OPCODE (cfg.overdueParam t now) d with overdue := none } := by
  rw [overdueTest, armed]
  exact if_neg (by rw [elapsed]; exact Bool.false_ne_true)

/-- The overdue test is no business of the block or the channel (R171). -/
theorem overdueTest_frame (d : Driver tw) :
    (overdueTest cfg now d).block = d.block ∧ (overdueTest cfg now d).channel = d.channel := by
  unfold overdueTest
  split
  · exact ⟨rfl, rfl⟩
  · split_ifs <;> exact ⟨rfl, rfl⟩

theorem poll_of_channel_nil {d : Driver tw} (empty : d.channel = []) : poll cfg now d = overdueTest cfg now d := by
  rw [poll, empty]
  rfl

/-- Settles O57: the reset command arms both deadlines; a poll past the second calls the handler and disarms it, so
that the next poll does nothing. -/
theorem resetCommandBusyThenOverdue : Obligations.ResetCommandBusyThenOverdue := by
  intro tw cfg t₀ hi lo d expired d₁
  obtain ⟨busy, overdue⟩ : d₁.busy = _ ∧ d₁.overdue = _ := (sendArmsWindows tw cfg t₀ 0x0C#8 hi lo d expired).1 rfl
  refine ⟨fun now op h l => ⟨fun early => ?_, fun late => ?_⟩, fun now later empty late => ?_⟩
  · exact send_busy cfg now (busy ▸ decide_eq_true early) op h l
  · exact (send_free cfg now (busy ▸ decide_eq_false (Nat.not_lt.2 late)) op h l).1
  · have free := (runningAt_eq_false_iff t₀ d.busy).2 expired
    obtain ⟨-, -, -, channel⟩ := send_free_env cfg t₀ free 0x0C#8 hi lo
    have first := (poll_of_channel_nil cfg now (d := d₁) (channel.trans empty)).trans
      (overdueTest_elapsed cfg now overdue (decide_eq_false (Nat.not_lt.2 late)))
    have taken : (poll cfg now d₁).channel = [] := by rw [first]; exact channel.trans empty
    have second := (poll_of_channel_nil cfg later taken).trans (overdueTest_unarmed cfg later (by rw [first]))
    rw [second, first]
    exact ⟨_, rfl, rfl, rfl⟩

/-! ### After a completed frame -/

theorem disarmByFrame_frame (d : Driver tw) :
    (disarmByFrame cfg d).block = d.block ∧ (disarmByFrame cfg d).busy = d.busy ∧
    (disarmByFrame cfg d).channel = d.channel ∧ (disarmByFrame cfg d).calls = d.calls := by
  unfold disarmByFrame
  split_ifs <;> exact ⟨rfl, rfl, rfl, rfl⟩

theorem disarmByFrame_unarmed {d : Driver tw} (unarmed : d.overdue = none) : (disarmByFrame cfg d).overdue = none := by
  unfold disarmByFrame
  split_ifs
  · rfl
  · exact unarmed

theorem extendBusy_frame (d : Driver tw) :
    (extendBusy cfg now d).block = d.block ∧ (extendBusy cfg now d).overdue = d.overdue ∧
    (extendBusy cfg now d).channel = d.channel ∧ (extendBusy cfg now d).calls = d.calls := by
  unfold extendBusy
  split_ifs <;> exact ⟨rfl, rfl, rfl, rfl⟩

/-- A frame with a right checksum is handed to the handler, one with a wrong one is not (R167, R168). -/
theorem forward_valid {d : Driver tw} (valid : d.block.rx.ckok = true) :
    forward cfg now d =
      callHandler d.block.rx.rxop (joinBytes d.block.rx.rxph d.block.rx.rxpl) (extendBusy cfg now d) :=
  if_pos valid

theorem forward_invalid {d : Driver tw} (invalid : d.block.rx.ckok = false) : forward cfg now d = d :=
  if_neg (by rw [invalid]; exact Bool.false_ne_true)

theorem forward_frame (d : Driver tw) :
    (forward cfg now d).overdue = d.overdue ∧ (forward cfg now d).channel = d.channel := by
  cases ckok : d.block.rx.ckok
  · rw [forward_invalid cfg now ckok]
    exact ⟨rfl, rfl⟩
  · obtain ⟨-, overdue, channel, -⟩ := extendBusy_frame cfg now d
    rw [forward_valid cfg now ckok]
    exact ⟨overdue, channel⟩

theorem afterFrame_block (d : Driver tw) :
    (afterFrame cfg now d).block = respond Response.quiet { d.block with rx := cursorReset d.block.rx } :=
  issue_next (exec_rxreset d.block)

theorem afterFrame_unarmed {d : Driver tw} (unarmed : d.overdue = none) : (afterFrame cfg now d).overdue = none :=
  (forward_frame cfg now _).1.trans (disarmByFrame_unarmed cfg unarmed)

theorem afterFrame_valid {d : Driver tw} (valid : d.block.rx.ckok = true) :
    (afterFrame cfg now d).calls = d.calls ++ [⟨d.block.rx.rxop, joinBytes d.block.rx.rxph d.block.rx.rxpl⟩] := by
  obtain ⟨block, -, -, calls⟩ := disarmByFrame_frame cfg d
  rw [afterFrame, forward_valid cfg now (by rw [block]; exact valid), block]
  exact congrArg (· ++ [_]) ((extendBusy_frame cfg now _).2.2.2.trans calls)

theorem afterFrame_invalid {d : Driver tw} (invalid : d.block.rx.ckok = false) :
    (afterFrame cfg now d).calls = d.calls ∧ (afterFrame cfg now d).busy = d.busy := by
  obtain ⟨block, busy, -, calls⟩ := disarmByFrame_frame cfg d
  rw [afterFrame, forward_invalid cfg now (by rw [block]; exact invalid)]
  exact ⟨calls, busy⟩

/-! ### The poll's byte loop -/

/-- A byte from the channel is fed, and a completed frame is dealt with at once (R166). -/
theorem takeByte_eq (b : Byte) (d : Driver tw) :
    takeByte cfg now b d =
      if (lastResponse (feedByte b d.block)).done then afterFrame cfg now { d with block := feedByte b d.block }
      else { d with block := feedByte b d.block } := by
  rw [takeByte, issue_next (exec_feed d.block b)]

theorem takeByte_channel (b : Byte) (d : Driver tw) : (takeByte cfg now b d).channel = d.channel := by
  rw [takeByte_eq]
  split_ifs
  · exact (forward_frame cfg now _).2.trans (disarmByFrame_frame cfg _).2.2.1
  · rfl

/-- For the block, a byte from the channel is received and nothing else, but for the cursor reset of an `RXRESET`
(R166, R170). -/
theorem takeByte_block (b : Byte) (d : Driver tw) :
    (takeByte cfg now b d).block.tx = d.block.tx ∧
    (takeByte cfg now b d).block.rx.nbytes = d.block.rx.nbytes + 1#32 ∧
    (d.block.rx.idx ≤ 9#4 → (takeByte cfg now b d).block.rx.idx ≤ 9#4) := by
  have outcome := feedByte_outcome b d.block
  rw [takeByte_eq]
  split_ifs with completed
  · rw [afterFrame_block]
    exact ⟨rfl, outcome.nbytes, fun _ => (by decide : 0#4 ≤ 9#4)⟩
  · rw [Bool.not_eq_true] at completed
    exact ⟨rfl, outcome.nbytes, (completed ▸ outcome).idx_le_nine⟩

theorem takeBytes_cons {d : Driver tw} {b : Byte} {rest : List Byte} (channel : d.channel = b :: rest) (n : Nat) :
    takeBytes cfg now (n + 1) d = takeBytes cfg now n (takeByte cfg now b { d with channel := rest }) := by
  rw [takeBytes, channel]

theorem takeBytes_nil {d : Driver tw} (channel : d.channel = []) (n : Nat) : takeBytes cfg now n d = d := by
  cases n
  · rfl
  · rw [takeBytes, channel]

/-- The byte loop serves the whole channel in order (R166, R170). -/
theorem takeBytes_serves (bs : List Byte) {d : Driver tw} (channel : d.channel = bs) :
    serveBytes bs d.block = .next (takeBytes cfg now bs.length d).block ∧
    (takeBytes cfg now bs.length d).channel = [] ∧ (takeBytes cfg now bs.length d).block.tx = d.block.tx ∧
    (takeBytes cfg now bs.length d).block.rx.nbytes = d.block.rx.nbytes + BitVec.ofNat 32 bs.length := by
  induction bs generalizing d with
  | nil => exact ⟨rfl, channel, rfl, (BitVec.add_zero _).symm⟩
  | cons b rest ih =>
    have served := takeByte_serves cfg now b { d with channel := rest }
    obtain ⟨tx, nbytes, -⟩ := takeByte_block cfg now b { d with channel := rest }
    obtain ⟨serves, taken, tx', nbytes'⟩ := ih (takeByte_channel cfg now b { d with channel := rest })
    rw [List.length_cons, takeBytes_cons cfg now channel]
    refine ⟨?_, taken, tx'.trans tx, ?_⟩
    · rw [serveBytes, served]
      exact serves
    · rw [nbytes', nbytes, BitVec.add_assoc, Nat.add_comm, BitVec.ofNat_add]

/-- Settles O58: the byte loop takes the channel whole, and the overdue test leaves block and channel alone. -/
theorem pollFeedsWhatWasAvailable : Obligations.PollFeedsWhatWasAvailable := by
  intro tw cfg now d
  obtain ⟨block, channel⟩ := overdueTest_frame cfg now (takeBytes cfg now d.channel.length d)
  rw [poll, block, channel]
  exact takeBytes_serves cfg now d.channel rfl

theorem takeBytes_idx_le_nine (n : Nat) {d : Driver tw} (inside : d.block.rx.idx ≤ 9#4) :
    (takeBytes cfg now n d).block.rx.idx ≤ 9#4 := by
  induction n generalizing d with
  | zero => exact inside
  | succ n ih =>
    cases channel : d.channel with
    | nil => rwa [takeBytes_nil cfg now channel]
    | cons b rest =>
      rw [takeBytes_cons cfg now channel]
      exact ih ((takeByte_block cfg now b { d with channel := rest }).2.2 inside)

/-- Settles O60: each byte of the loop keeps the cursor within the sequence. -/
theorem pollNeverLosesAByte : Obligations.PollNeverLosesAByte := by
  refine fun tw cfg now d inside => ⟨fun n => takeBytes_idx_le_nine cfg now n inside, ?_⟩
  rw [poll, (overdueTest_frame cfg now _).1]
  exact takeBytes_idx_le_nine cfg now _ inside

/-! ### One frame on the channel -/

/-- Bytes that complete nothing are only fed (R166). -/
theorem takeBytes_quiet (bs : List Byte) {rest : List Byte} {d : Driver tw} (channel : d.channel = bs ++ rest)
    (quiet : ∀ r ∈ feedResponses bs d.block, r.done = false) :
    takeBytes cfg now (bs ++ rest).length d =
      takeBytes cfg now rest.length { d with block := feedBytes bs d.block, channel := rest } := by
  induction bs generalizing d with
  | nil =>
    rw [List.nil_append] at channel
    rw [List.nil_append, feedBytes_nil, ← channel]
  | cons b bs ih =>
    obtain ⟨first, quiet⟩ := List.forall_mem_cons.1 quiet
    rw [List.cons_append, List.length_cons, takeBytes_cons cfg now channel, takeByte_eq,
      if_neg (by rw [first]; exact Bool.false_ne_true), ih rfl quiet]
    rfl

theorem wellFormedFrame_frameBytes (op ack hi lo ckh ckl : Byte) :
    wellFormedFrame (frameBytes op ack hi lo ckh ckl) = checksumOk (receivedSum op ack hi lo ckh ckl) :=
  rfl

/-- The driver whose channel held these bytes, just after their `FEED`s. -/
def afterFeeds (bs : List Byte) (d : Driver tw) : Driver tw := { d with block := feedBytes bs d.block, channel := [] }

theorem afterFeeds_env (bs : List Byte) (d : Driver tw) :
    (afterFeeds bs d).overdue = d.overdue ∧ (afterFeeds bs d).calls = d.calls ∧ (afterFeeds bs d).busy = d.busy :=
  ⟨rfl, rfl, rfl⟩

/-- One frame on the channel is received whole and dealt with once (R166, R170). -/
theorem takeBytes_frame (op ack hi lo ckh ckl : Byte) {d : Driver tw}
    (channel : d.channel = (frameBytes op ack hi lo ckh ckl).toList) (pos : d.block.rx.idx = 0#4)
    (fresh : d.block.rx.acc = Config.ACC_INIT) :
    takeBytes cfg now d.channel.length d =
      afterFrame cfg now (afterFeeds (frameBytes op ack hi lo ckh ckl).toList d) := by
  have nine : (frameBytes op ack hi lo ckh ckl).toList =
      [Config.START, Config.VER, Config.LEN, op, ack, hi, lo, ckh, ckl] ++ [Config.END] := rfl
  have received := feedBytes_frameBytes (pos ▸ by decide) fresh op ack hi lo ckh ckl
  have completed := lastResponse_of_receivedResponses (congrArg State.trace received)
  have quiet : ∀ r ∈ feedResponses [Config.START, Config.VER, Config.LEN, op, ack, hi, lo, ckh, ckl] d.block,
      r.done = false := feedResponses_of_short (by rw [pos]; exact Nat.le_refl 9)
  rw [channel, nine, takeBytes_quiet cfg now _ (channel.trans nine) quiet,
    List.length_singleton, takeBytes_cons cfg now rfl 0, takeByte_eq]
  exact if_pos (congrArg Response.done completed)

/-- Settles O59: the frame is received whole with `CKOK` its checksum test, which decides whether it is forwarded; the
`RXRESET` follows either way, and no overdue call is armed. -/
theorem pollForwardsValidFramesOnly : Obligations.PollForwardsValidFramesOnly := by
  intro tw cfg now op ack hi lo ckh ckl d channel pos fresh unarmed
  obtain ⟨overdue, calls, busy⟩ := afterFeeds_env (frameBytes op ack hi lo ckh ckl).toList d
  have rx : (afterFeeds (frameBytes op ack hi lo ckh ckl).toList d).block.rx =
      receivedRegs op ack hi lo ckh ckl d.block.rx :=
    congrArg State.rx (feedBytes_frameBytes (pos ▸ by decide) fresh op ack hi lo ckh ckl)
  have polled : poll cfg now d = afterFrame cfg now (afterFeeds (frameBytes op ack hi lo ckh ckl).toList d) := by
    rw [poll, takeBytes_frame cfg now op ack hi lo ckh ckl channel pos fresh]
    exact overdueTest_unarmed cfg now (afterFrame_unarmed cfg now (overdue.trans unarmed))
  rw [polled, wellFormedFrame_frameBytes]
  refine ⟨fun valid => ?_, fun invalid => ?_, ?_⟩
  · rw [afterFrame_valid cfg now (by rw [rx]; exact valid), rx, calls]
    rfl
  · rw [← calls, ← busy]
    exact afterFrame_invalid cfg now (by rw [rx]; exact invalid)
  · rw [afterFrame_block]
    exact ⟨rfl, rfl⟩

end Sys2Proof.Machine
end
